-- ==== Sys2Proof/Word.lean ====
section
/-! DEFINITION. The bit-vector types of the block: port words, bytes and running sums. -/

namespace Sys2Proof

/-- A 32-bit word: a command word, a port register, an `int32` in two's complement (R12). -/
abbrev Word := BitVec 32

/-- One byte of a coefficient block or of a raw count (R37, R56). -/
abbrev Byte := BitVec 8

/-- A 64-bit running sum, an `int64` in two's complement (R30, R31). -/
abbrev Dword := BitVec 64

end Sys2Proof
end

