-- ==== Sys2Proof/Config.lean ====
section
/-! DEFINITION. What one implementation of the block fixes before its first transaction: the sizes of R10,
the open parameters of R11 and the default values that the spec gives them. -/

namespace Sys2Proof

/-- Largest IIR depth power (R10, `IIR_DP_MAX`). -/
def Config.iirDpMax : Nat := 31

/-- Largest FIR depth power (R10, `FIR_DP_MAX`). -/
def Config.firDpMax : Nat := 5

/-- Reset value of `FCFG`: `SDP = 3`, `DDP = 5`, `FHEAD = 0` (R10, R35, R43). -/
def Config.fcfgReset : Word := 0x00000503#32

/-- Bits of the coefficient string: 18 bytes (R57, R161). -/
def Config.coefBits : Nat := 144

/-- One coefficient field: the offset of its first bit, counted from the most significant bit of
`coef[0]`, and its width (R161). -/
structure CoefField where
  off : Nat
  width : Nat
deriving DecidableEq, Repr

/-- Rounding of the host's `to_float`, the open parameter `F32_ROUND` (R11, R222). -/
inductive F32Round where
  | nearestEven
  | towardZero
deriving DecidableEq, Repr

/-- The open parameters of R11, arguments of the model. `coefLayout` is `COEF_LAYOUT` (R161), `scaleTable`
is `SCALE_TABLE` (R164), `f32Round` is `F32_ROUND` (R222, read by the host's conversion alone). -/
structure Params where
  coefLayout : Vector CoefField 9
  scaleTable : Vector Word 8
  f32Round : F32Round
deriving DecidableEq, Repr

/-- `COEF_LAYOUT`'s default (R161, log entry 2). -/
def Config.coefLayout : Vector CoefField 9 :=
  #v[⟨0, 12⟩, ⟨12, 12⟩, ⟨24, 20⟩, ⟨44, 20⟩, ⟨64, 16⟩, ⟨80, 16⟩, ⟨96, 16⟩, ⟨112, 16⟩, ⟨128, 16⟩]

/-- `SCALE_TABLE`'s default (R164, log entry 3). -/
def Config.scaleTable : Vector Word 8 :=
  #v[524288, 1572864, 3670016, 7864320, 253952, 516096, 1040384, 2088960]

/-- The default of every open parameter (R11). -/
def Params.default : Params :=
  { coefLayout := Config.coefLayout, scaleTable := Config.scaleTable, f32Round := .nearestEven }

/-- A layout the decoder's arithmetic is defined for: widths 1 to 32 (R160), every field inside the
144-bit string (R161). -/
def CoefField.valid (f : CoefField) : Bool :=
  decide (1 ≤ f.width) && decide (f.width ≤ 32) && decide (f.off + f.width ≤ Config.coefBits)

/-- Every field of the layout is valid. -/
def Params.valid (p : Params) : Bool :=
  p.coefLayout.toList.all CoefField.valid

end Sys2Proof
end

