-- ==== Sys2Proof/Syntax.lean ====
section
/-! DEFINITION. The command set BSB-1 as syntax: one constructor per row of the opcode map (R74), operands
in the order of R78. -/

namespace Sys2Proof

/-- An integer register index, `x[0..7]` (R22, R72). -/
abbrev XReg := Fin 8

/-- A SoftFloat register index, `f[0..15]` (R22, R72). -/
abbrev FReg := Fin 16

/-- A sensor context index, `ctx[0..1]` (R33, R72). -/
abbrev CtxId := Fin 2

/-- A stand-alone filter unit index, `iir[0..1]` or `fir[0..1]` by opcode (R30, R31, R72). -/
abbrev UnitId := Fin 2

/-- A measurement channel: 0 temperature, 1 pressure (R72). -/
inductive Channel where
  | temperature
  | pressure
deriving DecidableEq, Repr

/-- A pipeline filter selector: 0 shallow, 1 deep (R72). -/
inductive FilterSel where
  | shallow
  | deep
deriving DecidableEq, Repr

/-- The 36 commands (R74). A field whose legal range is a whole number of bits has a type of exactly that
range; the four operands that R75 lists with a `max` (the indices of CEXT and CGET, the destination of
PSNAP, the byte index of LDB) keep their field and are checked by `Instr.wellFormed`. -/
inductive Instr where
  /-- R210 -/
  | nop
  /-- R211 -/
  | fclr
  /-- R212 -/
  | xli (xd : XReg) (imm16 : BitVec 16)
  /-- R213 -/
  | xlih (xd : XReg) (imm16 : BitVec 16)
  /-- R214 -/
  | ldb (k : CtxId) (idx : BitVec 8) (byte : Byte)
  /-- R110 -/
  | fadd (fd fa fb : FReg)
  /-- R111 -/
  | fsub (fd fa fb : FReg)
  /-- R112 -/
  | fmul (fd fa fb : FReg)
  /-- R113 -/
  | fdiv (fd fa fb : FReg)
  /-- R114 -/
  | fmuli (fd fa : FReg) (xb : XReg)
  /-- R115 -/
  | ffrom (fd : FReg) (xa xb : XReg)
  /-- R116 -/
  | fmov (fd fa : FReg)
  /-- R117 -/
  | fmant (xd : XReg) (fa : FReg)
  /-- R118 -/
  | fexp (xd : XReg) (fa : FReg)
  /-- R119 -/
  | fsign (xd : XReg) (fa : FReg)
  /-- R120 -/
  | msb (xd xa : XReg)
  /-- R121 -/
  | lsb (xd xa : XReg)
  /-- R144 -/
  | iirnew (u : UnitId) (xa : XReg) (dp : BitVec 12)
  /-- R145 -/
  | iirpush (u : UnitId) (xa : XReg)
  /-- R146 -/
  | iiravg (xd : XReg) (u : UnitId)
  /-- R149 -/
  | firnew (u : UnitId) (xa : XReg) (dp : BitVec 12)
  /-- R150 -/
  | firpush (u : UnitId) (xa : XReg)
  /-- R151 -/
  | firavg (xd : XReg) (u : UnitId)
  /-- R162 -/
  | cext (xd : XReg) (k : CtxId) (i : BitVec 4)
  /-- R165 -/
  | ksel (k : CtxId)
  /-- R166 -/
  | kset (k : CtxId) (fa : FReg) (ch : Channel)
  /-- R167 -/
  | cinit (k : CtxId)
  /-- R168 -/
  | cget (fd : FReg) (k : CtxId) (i : BitVec 4)
  /-- R181 -/
  | adcext (xd : XReg) (k : CtxId) (ch : Channel)
  /-- R182 -/
  | comp (k : CtxId)
  /-- R192 -/
  | pfeed (k : CtxId)
  /-- R196 -/
  | pshal (fd : FReg) (k : CtxId)
  /-- R197 -/
  | pdeep (fd : FReg) (k : CtxId)
  /-- R198 -/
  | psnap (xd : XReg) (k : CtxId) (sel : FilterSel)
  /-- R199 -/
  | adiff (fd : FReg) (kt ks : CtxId)
  /-- R200 -/
  | preset (k : CtxId)
deriving DecidableEq, Repr

end Sys2Proof
end

