-- ==== Sys2Proof/WellFormed.lean ====
section
/-! DEFINITION. The range checks on operands that the types of `Instr` do not already make (R72, R75, R76). -/

namespace Sys2Proof

/-- The four checks of R75 that no mask can express: CEXT `i <= 8`, CGET `i <= 12`, PSNAP `xd <= 6`,
LDB `idx <= 23`. Every other operand is legal by its type. -/
def Instr.wellFormed : Instr → Bool
  | .nop => true
  | .fclr => true
  | .xli _ _ => true
  | .xlih _ _ => true
  | .ldb _ idx _ => decide (idx.toNat ≤ 23)
  | .fadd _ _ _ => true
  | .fsub _ _ _ => true
  | .fmul _ _ _ => true
  | .fdiv _ _ _ => true
  | .fmuli _ _ _ => true
  | .ffrom _ _ _ => true
  | .fmov _ _ => true
  | .fmant _ _ => true
  | .fexp _ _ => true
  | .fsign _ _ => true
  | .msb _ _ => true
  | .lsb _ _ => true
  | .iirnew _ _ _ => true
  | .iirpush _ _ => true
  | .iiravg _ _ => true
  | .firnew _ _ _ => true
  | .firpush _ _ => true
  | .firavg _ _ => true
  | .cext _ _ i => decide (i.toNat ≤ 8)
  | .ksel _ => true
  | .kset _ _ _ => true
  | .cinit _ => true
  | .cget _ _ i => decide (i.toNat ≤ 12)
  | .adcext _ _ _ => true
  | .comp _ => true
  | .pfeed _ => true
  | .pshal _ _ => true
  | .pdeep _ _ => true
  | .psnap xd _ _ => decide (xd.val ≤ 6)
  | .adiff _ _ _ => true
  | .preset _ => true

end Sys2Proof
end

