-- ==== Sys2Proof/Decode.lean ====
section
/-! DEFINITION. The 32-bit command word: its five fields (R70), the six formats (R71), the decoder with its
named rejections (R72 to R76), the encoder (R75), and the match, mask and max rows of the opcode table. -/

namespace Sys2Proof

/-- Why a word is illegal (R76). Each of them raises `IllegalCommand` and nothing tells them apart in the
machine's state. -/
inductive Illegal where
  /-- the opcode is not in the map of R74 -/
  | opcode
  /-- a field that the format does not use is not zero (R71) -/
  | unusedField
  /-- a register, context, unit, index, channel or selector is outside its range (R72), or the byte index
  of LDB is above 23 (R73) -/
  | operandRange
deriving DecidableEq, Repr

/-- The five fields of a command word (R70). -/
structure Fields where
  op : Nat
  d : Nat
  a : Nat
  b : Nat
  imm12 : Nat
deriving DecidableEq, Repr

/-- Bits 15:0 of the word, fields `b` and `imm12` together (R70). -/
def Fields.imm16 (q : Fields) : Nat := q.b * 2 ^ 12 + q.imm12

/-- The fields of a word (R70): `op` 31:24, `d` 23:20, `a` 19:16, `b` 15:12, `imm12` 11:0. -/
def fieldsOf (w : Word) : Fields :=
  { op := w.toNat / 2 ^ 24
    d := w.toNat / 2 ^ 20 % 2 ^ 4
    a := w.toNat / 2 ^ 16 % 2 ^ 4
    b := w.toNat / 2 ^ 12 % 2 ^ 4
    imm12 := w.toNat % 2 ^ 12 }

/-- The word of five fields (R75). -/
def wordOf (q : Fields) : Word :=
  BitVec.ofNat 32 (q.op * 2 ^ 24 + q.d * 2 ^ 20 + q.a * 2 ^ 16 + q.b * 2 ^ 12 + q.imm12)

/-- The six formats (R71). -/
inductive Format where
  | z
  | r1
  | r2
  | r3
  | ri
  | i16
deriving DecidableEq, Repr

/-- The fields a format does not use are zero (R71). -/
def Format.unusedZero : Format → Fields → Bool
  | .z, q => q.d == 0 && q.a == 0 && q.b == 0 && q.imm12 == 0
  | .r1, q => q.a == 0 && q.b == 0 && q.imm12 == 0
  | .r2, q => q.b == 0 && q.imm12 == 0
  | .r3, q => q.imm12 == 0
  | .ri, q => q.b == 0
  | .i16, q => q.a == 0

/-- An integer register field: 0..7 (R72). -/
def xIndex (v : Nat) : Option XReg := if h : v < 8 then some ⟨v, h⟩ else none

/-- A SoftFloat register field: 0..15 (R72). -/
def fIndex (v : Nat) : Option FReg := if h : v < 16 then some ⟨v, h⟩ else none

/-- A context or filter unit field: 0..1 (R72). -/
def pairIndex (v : Nat) : Option (Fin 2) := if h : v < 2 then some ⟨v, h⟩ else none

/-- A channel field: 0 temperature, 1 pressure (R72). -/
def channelOf : Nat → Option Channel
  | 0 => some .temperature
  | 1 => some .pressure
  | _ => none

/-- The field value of a channel (R72). -/
def Channel.code : Channel → Nat
  | .temperature => 0
  | .pressure => 1

/-- A filter selector field: 0 shallow, 1 deep (R72). -/
def selectorOf : Nat → Option FilterSel
  | 0 => some .shallow
  | 1 => some .deep
  | _ => none

/-- The field value of a filter selector (R72). -/
def FilterSel.code : FilterSel → Nat
  | .shallow => 0
  | .deep => 1

/-- The opcode map (R74): the format of an opcode, and the command that the fields name if every operand
field fits its kind (R72). -/
def opcodeRow (q : Fields) : Option (Format × Option Instr) :=
  match q.op with
  | 0x00 => some (.z, some .nop)
  | 0x01 => some (.z, some .fclr)
  | 0x02 => some (.i16, do return .xli (← xIndex q.d) (BitVec.ofNat 16 q.imm16))
  | 0x03 => some (.i16, do return .xlih (← xIndex q.d) (BitVec.ofNat 16 q.imm16))
  | 0x04 => some (.i16, do
      return .ldb (← pairIndex q.d) (BitVec.ofNat 8 (q.imm16 / 2 ^ 8)) (BitVec.ofNat 8 q.imm16))
  | 0x10 => some (.r3, do return .fadd (← fIndex q.d) (← fIndex q.a) (← fIndex q.b))
  | 0x11 => some (.r3, do return .fsub (← fIndex q.d) (← fIndex q.a) (← fIndex q.b))
  | 0x12 => some (.r3, do return .fmul (← fIndex q.d) (← fIndex q.a) (← fIndex q.b))
  | 0x13 => some (.r3, do return .fdiv (← fIndex q.d) (← fIndex q.a) (← fIndex q.b))
  | 0x14 => some (.r3, do return .fmuli (← fIndex q.d) (← fIndex q.a) (← xIndex q.b))
  | 0x15 => some (.r3, do return .ffrom (← fIndex q.d) (← xIndex q.a) (← xIndex q.b))
  | 0x16 => some (.r2, do return .fmov (← fIndex q.d) (← fIndex q.a))
  | 0x18 => some (.r2, do return .fmant (← xIndex q.d) (← fIndex q.a))
  | 0x19 => some (.r2, do return .fexp (← xIndex q.d) (← fIndex q.a))
  | 0x1A => some (.r2, do return .fsign (← xIndex q.d) (← fIndex q.a))
  | 0x1B => some (.r2, do return .msb (← xIndex q.d) (← xIndex q.a))
  | 0x1C => some (.r2, do return .lsb (← xIndex q.d) (← xIndex q.a))
  | 0x20 => some (.ri, do return .iirnew (← pairIndex q.d) (← xIndex q.a) (BitVec.ofNat 12 q.imm12))
  | 0x21 => some (.r2, do return .iirpush (← pairIndex q.d) (← xIndex q.a))
  | 0x22 => some (.r2, do return .iiravg (← xIndex q.d) (← pairIndex q.a))
  | 0x24 => some (.ri, do return .firnew (← pairIndex q.d) (← xIndex q.a) (BitVec.ofNat 12 q.imm12))
  | 0x25 => some (.r2, do return .firpush (← pairIndex q.d) (← xIndex q.a))
  | 0x26 => some (.r2, do return .firavg (← xIndex q.d) (← pairIndex q.a))
  | 0x30 => some (.r3, do return .cext (← xIndex q.d) (← pairIndex q.a) (BitVec.ofNat 4 q.b))
  | 0x31 => some (.r1, do return .ksel (← pairIndex q.d))
  | 0x32 => some (.r3, do return .kset (← pairIndex q.d) (← fIndex q.a) (← channelOf q.b))
  | 0x33 => some (.r1, do return .cinit (← pairIndex q.d))
  | 0x34 => some (.r3, do return .cget (← fIndex q.d) (← pairIndex q.a) (BitVec.ofNat 4 q.b))
  | 0x38 => some (.r3, do return .adcext (← xIndex q.d) (← pairIndex q.a) (← channelOf q.b))
  | 0x39 => some (.r1, do return .comp (← pairIndex q.d))
  | 0x40 => some (.r1, do return .pfeed (← pairIndex q.d))
  | 0x41 => some (.r2, do return .pshal (← fIndex q.d) (← pairIndex q.a))
  | 0x42 => some (.r2, do return .pdeep (← fIndex q.d) (← pairIndex q.a))
  | 0x43 => some (.r3, do return .psnap (← xIndex q.d) (← pairIndex q.a) (← selectorOf q.b))
  | 0x44 => some (.r3, do return .adiff (← fIndex q.d) (← pairIndex q.a) (← pairIndex q.b))
  | 0x45 => some (.r1, do return .preset (← pairIndex q.d))
  | _ => none

/-- Decoding, total on the 2^32 words (R76): the command, or the reason the word is illegal. Legality depends
on the word alone. -/
def decode (w : Word) : Except Illegal Instr :=
  match opcodeRow (fieldsOf w) with
  | none => .error .opcode
  | some (fmt, named) =>
    if fmt.unusedZero (fieldsOf w) then
      match named with
      | none => .error .operandRange
      | some i => if i.wellFormed then .ok i else .error .operandRange
    else .error .unusedField

/-- The fields of a command (R74, R75); fields its format does not use are zero. -/
def Instr.fields : Instr → Fields
  | .nop => ⟨0x00, 0, 0, 0, 0⟩
  | .fclr => ⟨0x01, 0, 0, 0, 0⟩
  | .xli xd imm => ⟨0x02, xd, 0, imm.toNat / 2 ^ 12, imm.toNat % 2 ^ 12⟩
  | .xlih xd imm => ⟨0x03, xd, 0, imm.toNat / 2 ^ 12, imm.toNat % 2 ^ 12⟩
  | .ldb k idx byte =>
    ⟨0x04, k, 0, (idx.toNat * 2 ^ 8 + byte.toNat) / 2 ^ 12, (idx.toNat * 2 ^ 8 + byte.toNat) % 2 ^ 12⟩
  | .fadd fd fa fb => ⟨0x10, fd, fa, fb, 0⟩
  | .fsub fd fa fb => ⟨0x11, fd, fa, fb, 0⟩
  | .fmul fd fa fb => ⟨0x12, fd, fa, fb, 0⟩
  | .fdiv fd fa fb => ⟨0x13, fd, fa, fb, 0⟩
  | .fmuli fd fa xb => ⟨0x14, fd, fa, xb, 0⟩
  | .ffrom fd xa xb => ⟨0x15, fd, xa, xb, 0⟩
  | .fmov fd fa => ⟨0x16, fd, fa, 0, 0⟩
  | .fmant xd fa => ⟨0x18, xd, fa, 0, 0⟩
  | .fexp xd fa => ⟨0x19, xd, fa, 0, 0⟩
  | .fsign xd fa => ⟨0x1A, xd, fa, 0, 0⟩
  | .msb xd xa => ⟨0x1B, xd, xa, 0, 0⟩
  | .lsb xd xa => ⟨0x1C, xd, xa, 0, 0⟩
  | .iirnew u xa dp => ⟨0x20, u, xa, 0, dp.toNat⟩
  | .iirpush u xa => ⟨0x21, u, xa, 0, 0⟩
  | .iiravg xd u => ⟨0x22, xd, u, 0, 0⟩
  | .firnew u xa dp => ⟨0x24, u, xa, 0, dp.toNat⟩
  | .firpush u xa => ⟨0x25, u, xa, 0, 0⟩
  | .firavg xd u => ⟨0x26, xd, u, 0, 0⟩
  | .cext xd k i => ⟨0x30, xd, k, i.toNat, 0⟩
  | .ksel k => ⟨0x31, k, 0, 0, 0⟩
  | .kset k fa ch => ⟨0x32, k, fa, ch.code, 0⟩
  | .cinit k => ⟨0x33, k, 0, 0, 0⟩
  | .cget fd k i => ⟨0x34, fd, k, i.toNat, 0⟩
  | .adcext xd k ch => ⟨0x38, xd, k, ch.code, 0⟩
  | .comp k => ⟨0x39, k, 0, 0, 0⟩
  | .pfeed k => ⟨0x40, k, 0, 0, 0⟩
  | .pshal fd k => ⟨0x41, fd, k, 0, 0⟩
  | .pdeep fd k => ⟨0x42, fd, k, 0, 0⟩
  | .psnap xd k sel => ⟨0x43, xd, k, sel.code, 0⟩
  | .adiff fd kt ks => ⟨0x44, fd, kt, ks, 0⟩
  | .preset k => ⟨0x45, k, 0, 0, 0⟩

/-- The word of a command (R75). -/
def encode (i : Instr) : Word := wordOf i.fields

/-- The instruction the decoder reads from the low `nbits` bits of `w`. A command is one 32-bit word that
the port takes whole (R58, R70), so no byte order enters. -/
def decodeTableWord (nbits w : Nat) : Option Instr :=
  (decode (BitVec.ofNat 32 (w % 2 ^ nbits))).toOption

/-- A range check that no mask expresses (R75): the field of `width` bits from bit `lo` is at most `max`. -/
structure FieldMax where
  lo : Nat
  width : Nat
  max : Nat
deriving DecidableEq, Repr

/-- One row of the opcode table (R75). -/
structure TableRow where
  mnemonic : String
  matchBits : Word
  mask : Word
  fieldMax : Option FieldMax
deriving DecidableEq, Repr

/-- A word passes a row: its `mask` bits spell `match`, and its bounded field is in range (R75). -/
def TableRow.accepts (r : TableRow) (w : Word) : Bool :=
  w &&& r.mask == r.matchBits &&
    match r.fieldMax with
    | none => true
    | some m => decide (w.toNat / 2 ^ m.lo % 2 ^ m.width ≤ m.max)

/-- The 36 rows of the opcode table (R74, R75). -/
def opcodeTable : List TableRow :=
  [
   ⟨"NOP", 0x00000000#32, 0xFFFFFFFF#32, none⟩,
   ⟨"FCLR", 0x01000000#32, 0xFFFFFFFF#32, none⟩,
   ⟨"XLI", 0x02000000#32, 0xFF8F0000#32, none⟩,
   ⟨"XLIH", 0x03000000#32, 0xFF8F0000#32, none⟩,
   ⟨"LDB", 0x04000000#32, 0xFFEF0000#32, some ⟨8, 8, 23⟩⟩,
   ⟨"FADD", 0x10000000#32, 0xFF000FFF#32, none⟩,
   ⟨"FSUB", 0x11000000#32, 0xFF000FFF#32, none⟩,
   ⟨"FMUL", 0x12000000#32, 0xFF000FFF#32, none⟩,
   ⟨"FDIV", 0x13000000#32, 0xFF000FFF#32, none⟩,
   ⟨"FMULI", 0x14000000#32, 0xFF008FFF#32, none⟩,
   ⟨"FFROM", 0x15000000#32, 0xFF088FFF#32, none⟩,
   ⟨"FMOV", 0x16000000#32, 0xFF00FFFF#32, none⟩,
   ⟨"FMANT", 0x18000000#32, 0xFF80FFFF#32, none⟩,
   ⟨"FEXP", 0x19000000#32, 0xFF80FFFF#32, none⟩,
   ⟨"FSIGN", 0x1A000000#32, 0xFF80FFFF#32, none⟩,
   ⟨"MSB", 0x1B000000#32, 0xFF88FFFF#32, none⟩,
   ⟨"LSB", 0x1C000000#32, 0xFF88FFFF#32, none⟩,
   ⟨"IIRNEW", 0x20000000#32, 0xFFE8F000#32, none⟩,
   ⟨"IIRPUSH", 0x21000000#32, 0xFFE8FFFF#32, none⟩,
   ⟨"IIRAVG", 0x22000000#32, 0xFF8EFFFF#32, none⟩,
   ⟨"FIRNEW", 0x24000000#32, 0xFFE8F000#32, none⟩,
   ⟨"FIRPUSH", 0x25000000#32, 0xFFE8FFFF#32, none⟩,
   ⟨"FIRAVG", 0x26000000#32, 0xFF8EFFFF#32, none⟩,
   ⟨"CEXT", 0x30000000#32, 0xFF8E0FFF#32, some ⟨12, 4, 8⟩⟩,
   ⟨"KSEL", 0x31000000#32, 0xFFEFFFFF#32, none⟩,
   ⟨"KSET", 0x32000000#32, 0xFFE0EFFF#32, none⟩,
   ⟨"CINIT", 0x33000000#32, 0xFFEFFFFF#32, none⟩,
   ⟨"CGET", 0x34000000#32, 0xFF0E0FFF#32, some ⟨12, 4, 12⟩⟩,
   ⟨"ADCEXT", 0x38000000#32, 0xFF8EEFFF#32, none⟩,
   ⟨"COMP", 0x39000000#32, 0xFFEFFFFF#32, none⟩,
   ⟨"PFEED", 0x40000000#32, 0xFFEFFFFF#32, none⟩,
   ⟨"PSHAL", 0x41000000#32, 0xFF0EFFFF#32, none⟩,
   ⟨"PDEEP", 0x42000000#32, 0xFF0EFFFF#32, none⟩,
   ⟨"PSNAP", 0x43000000#32, 0xFF8EEFFF#32, some ⟨20, 4, 6⟩⟩,
   ⟨"ADIFF", 0x44000000#32, 0xFF0EEFFF#32, none⟩,
   ⟨"PRESET", 0x45000000#32, 0xFFEFFFFF#32, none⟩
  ]

end Sys2Proof
end

