-- ==== Sys2Proof/Machine/State.lean ====
section
/-! DEFINITION. Everything the spec gives the block to hold (10_state.md), as plain data, and its value
after reset (R43). `params`, `pending` and `response` are the model's own fields. -/

namespace Sys2Proof.Machine

/-- The ten fault causes of the block (R230). A command that raises one still ends in a next state: the state
before it plus the fault record (R231). -/
inductive Cause where
  | illegalCommand
  | divisionByZero
  | exponentRange
  | filterConfig
  | filterInvalid
  | configLocked
  | notCalibrated
  | noSample
  | notPrimed
  | pipelineRange
deriving DecidableEq, Repr

/-- A SoftFloat place: value `mant * 2^exp`, both fields `int32`; the sign is derived from the mantissa and
not stored (R20). -/
structure SoftFloat where
  mant : Word
  exp : Word
deriving DecidableEq, Repr

/-- `ZERO` (R14). -/
def SoftFloat.zero : SoftFloat := { mant := 0, exp := 0 }

/-- An IIR unit (R30): `dp` has 5 bits, `sum` is an `int64`, `avg` an `int32`. -/
structure Iir where
  valid : Bool
  dp : Fin 32
  sum : Dword
  avg : Word
deriving DecidableEq, Repr

/-- An IIR unit after reset (R30). -/
def Iir.reset : Iir := { valid := false, dp := 0, sum := 0, avg := 0 }

/-- A FIR unit (R31): `dp` is 0..5, `sum` an `int64`, `avg` an `int32`, `buf` the 32 ring slots, `cur` the slot
the next push overwrites. -/
structure Fir where
  valid : Bool
  dp : Fin 6
  sum : Dword
  avg : Word
  buf : Vector Word 32
  cur : Fin 32
deriving DecidableEq, Repr

/-- A FIR unit after reset (R31). -/
def Fir.reset : Fir :=
  { valid := false, dp := 0, sum := 0, avg := 0, buf := Vector.replicate 32 0, cur := 0 }

/-- A sensor context (R33 to R37). `mcfg` and `fcfg` are the port words of R34 and R35, whose reserved bits are
kept 0; `calibrated`, `compvalid` and `primed` are the bits of `PSTAT` (R36). -/
structure Context where
  mcfg : Word
  fcfg : Word
  calibrated : Bool
  compvalid : Bool
  primed : Bool
  coef : Vector Byte 18
  rawt : Vector Byte 3
  rawp : Vector Byte 3
  kt : SoftFloat
  kp : SoftFloat
  craw : Vector Word 9
  c : Vector SoftFloat 9
  tcomp : SoftFloat
  pcomp : SoftFloat
  fexp : Word
  shal : Fir
  deep : Fir
deriving DecidableEq, Repr

/-- A context after reset (R43). -/
def Context.reset : Context :=
  { mcfg := 0
    fcfg := Config.fcfgReset
    calibrated := false
    compvalid := false
    primed := false
    coef := Vector.replicate 18 0
    rawt := Vector.replicate 3 0
    rawp := Vector.replicate 3 0
    kt := SoftFloat.zero
    kp := SoftFloat.zero
    craw := Vector.replicate 9 0
    c := Vector.replicate 9 SoftFloat.zero
    tcomp := SoftFloat.zero
    pcomp := SoftFloat.zero
    fexp := 0
    shal := Fir.reset
    deep := Fir.reset }

/-- What reaches the block from outside, one at a time (R16, R50, R250). `write r v` is `MemWrite(r, 4, v)`,
which for `CMD` issues the command word `v`; `read r` is `MemRead(r, 4)`; `reset` is the reset input asserted
and released. -/
inductive Event where
  | write (r : Nat) (v : Word)
  | read (r : Nat)
  | reset
deriving DecidableEq, Repr

/-- The block's response to a host transaction (R17, R50). -/
inductive Response where
  | ok
  | fault (c : Cause)
  | value (v : Word)
deriving DecidableEq, Repr

/-- The block's state. -/
structure State where
  /-- integer registers (R22) -/
  x : Vector Word 8
  /-- SoftFloat registers (R22) -/
  f : Vector SoftFloat 16
  /-- `STATUS`: sticky flag of cause `n` in bit `n`, reserved bits kept 0 (R26) -/
  status : Word
  /-- `FCAUSE` bits 3:0 (R27) -/
  fcause : BitVec 4
  /-- `FCMD` (R28) -/
  fcmd : Word
  /-- `ERRCNT` (R29) -/
  errcnt : Word
  /-- stand-alone IIR units (R30) -/
  iir : Vector Iir 2
  /-- stand-alone FIR units (R31) -/
  fir : Vector Fir 2
  /-- sensor contexts (R33) -/
  ctx : Vector Context 2
  /-- the model's own: the open parameters, fixed before the first transaction (R11) -/
  params : Params
  /-- the model's own: the host's events not yet accepted, oldest first (R61) -/
  pending : List Event
  /-- the model's own: the response to the latest host transaction (R17) -/
  response : Option Response
deriving DecidableEq, Repr

/-- The block right after reset (R43, R250). -/
def State.reset : State :=
  { x := Vector.replicate 8 0
    f := Vector.replicate 16 SoftFloat.zero
    status := 0
    fcause := 0
    fcmd := 0
    errcnt := 0
    iir := Vector.replicate 2 Iir.reset
    fir := Vector.replicate 2 Fir.reset
    ctx := Vector.replicate 2 Context.reset
    params := Params.default
    pending := []
    response := none }

/-- Reasons the machine stops with a fault: none. Every command either completes or records one of the ten causes
and the block goes on (R17, R231, R233), and port accesses never fault (R234). Nobody raises one; it is safe, since
the spec lets no step stop. -/
inductive Fault where
deriving DecidableEq, Repr

/-- Reasons the machine refuses. -/
inductive Refusal where
  /-- raised by an arm of `exec` whose command has no meaning yet; no arm of this model does. Safe: the model
  stops where the block goes on. -/
  | notModelled (mnemonic : String)
deriving DecidableEq, Repr

end Sys2Proof.Machine
end

