-- ==== Sys2Proof/Machine/Arith.lean ====
section
/-! DEFINITION. The arithmetic primitives of the spec's notation (R13) over the mathematical integers, and the
bit-field helpers. -/

namespace Sys2Proof.Machine

/-- `sgn(v)`: `-1` below zero, else `+1`, zero included (R13). -/
def sgn (v : Int) : Int := if v < 0 then -1 else 1

/-- `msb_index(v)` for `v > 0`: the largest `i` with `2^i <= v` (R13, R104). -/
def msbIndex (v : Nat) : Nat := Nat.log2 v

/-- The index of the lowest 1 bit among bits `i` to `i + fuel - 1` of `v`, or `i + fuel`. -/
def lowestBitFrom (v : Nat) : Nat → Nat → Nat
  | 0, i => i
  | fuel + 1, i => if v.testBit i then i else lowestBitFrom v fuel (i + 1)

/-- `lsb_index(v)` for a 32-bit `v > 0`: the largest `i` such that `2^i` divides `v` (R13, R104). -/
def lsbIndex (v : Nat) : Nat := lowestBitFrom v 32 0

/-- `2^n` as an integer. -/
def pow2 (n : Nat) : Int := ((2 ^ n : Nat) : Int)

/-- `shr_tz(v, n)`: the right shift that truncates toward zero (R13). -/
def shrTz (v : Int) (n : Nat) : Int := sgn v * ((v.natAbs / 2 ^ n : Nat) : Int)

/-- `asr(v, n) = floor(v / 2^n)`: the arithmetic right shift (R13). -/
def asr (v : Int) (n : Nat) : Int := Int.fdiv v (pow2 n)

/-- `shl(v, n)`: `v * 2^n` (R13). -/
def shl (v : Int) (n : Nat) : Int := v * pow2 n

/-- `tdiv(n, d)` for `d != 0`: integer division truncating toward zero (R13). -/
def tquot (n d : Int) : Int := sgn n * sgn d * ((n.natAbs / d.natAbs : Nat) : Int)

/-- `clamp(v, lo, hi)` (R13). -/
def clamp (v lo hi : Int) : Int := if v < lo then lo else if hi < v then hi else v

/-- `v` is an `int32` (R12). -/
def fitsInt32 (v : Int) : Bool := decide (-2147483648 ≤ v) && decide (v ≤ 2147483647)

/-- Storing into an `int32` place; the rules store only values that fit (R12, log entry 8). -/
def int32 (v : Int) : Word := BitVec.ofInt 32 v

/-- Storing into an `int64` place; the rules store only values that fit (R12, R140, log entry 8). -/
def int64 (v : Int) : Dword := BitVec.ofInt 64 v

/-- `sext_16` of an immediate, as an `int32` (R73, R212). -/
def sext16 (v : BitVec 16) : Word := v.signExtend 32

/-- `sext_32` of a non-negative integer: its low 32 bits read in two's complement (R13). -/
def sext32 (v : Nat) : Int := (BitVec.ofNat 32 v).toInt

/-- `sext_field(v, w)`: DOC's shift to the top of a 32-bit word and arithmetic shift back (R160). -/
def sextField (v w : Nat) : Int := asr (sext32 (v * 2 ^ (32 - w) % 2 ^ 32)) (32 - w)

/-- The bytes of a buffer as one number, the lowest index most significant (R57). -/
def bigEndian : List Byte → Nat := List.foldl (fun acc b => acc * 256 + b.toNat) 0

/-- A byte read at the port, zero-extended (R56). -/
def zextByte (b : Byte) : Word := b.zeroExtend 32

/-- Bits 7:0 of a word written to a byte register (R56). -/
def lowByte (v : Word) : Byte := v.truncate 8

end Sys2Proof.Machine
end

