-- ==== Sys2Proof/Machine/Flags.lean ====
section
/-! DEFINITION. Flags: the cause codes, the sticky bits of `STATUS`, the fields and masks of the control words. -/

namespace Sys2Proof.Machine

/-- The code of a cause: the value of `FCAUSE` and the number of its bit in `STATUS` (R230). -/
def Cause.code : Cause → Nat
  | .illegalCommand => 1
  | .divisionByZero => 2
  | .exponentRange => 3
  | .filterConfig => 4
  | .filterInvalid => 5
  | .configLocked => 6
  | .notCalibrated => 7
  | .noSample => 8
  | .notPrimed => 9
  | .pipelineRange => 10

/-- The sticky flag of a cause in `STATUS` (R26). -/
def Cause.flag (c : Cause) : Word := BitVec.ofNat 32 (2 ^ c.code)

/-- The flag bits 10:1 of `STATUS` (R26). -/
def statusMask : Word := 0x000007FE#32

/-- The writable bits of `MCFG`: `P_OSR` 2:0, `T_OSR` 6:4 (R34). -/
def mcfgMask : Word := 0x00000077#32

/-- The writable bits of `FCFG`: `SDP` 4:0, `DDP` 12:8, `FHEAD` 19:16 (R35). -/
def fcfgMask : Word := 0x000F1F1F#32

/-- `STATUS` with the flag of a cause set (R231). -/
def stickySet (status : Word) (c : Cause) : Word := status ||| c.flag

/-- `STATUS` after a host write: every flag whose bit is 1 in the word is cleared (R26). -/
def stickyClear (status v : Word) : Word := status &&& ~~~(v &&& statusMask)

/-- `ERRCNT` after one more fault, saturating (R29, R231). -/
def countFault (errcnt : Word) : Word := BitVec.ofNat 32 (min (errcnt.toNat + 1) (2 ^ 32 - 1))

/-- `P_OSR`, bits 2:0 of `MCFG` (R34). -/
def pOsr (mcfg : Word) : Fin 8 := ⟨mcfg.toNat % 2 ^ 3, Nat.mod_lt _ (by decide)⟩

/-- `T_OSR`, bits 6:4 of `MCFG` (R34). -/
def tOsr (mcfg : Word) : Fin 8 := ⟨mcfg.toNat / 2 ^ 4 % 2 ^ 3, Nat.mod_lt _ (by decide)⟩

/-- `SDP`, bits 4:0 of `FCFG` (R35). -/
def sdp (fcfg : Word) : Nat := fcfg.toNat % 2 ^ 5

/-- `DDP`, bits 12:8 of `FCFG` (R35). -/
def ddp (fcfg : Word) : Nat := fcfg.toNat / 2 ^ 8 % 2 ^ 5

/-- `FHEAD`, bits 19:16 of `FCFG` (R35). -/
def fhead (fcfg : Word) : Nat := fcfg.toNat / 2 ^ 16 % 2 ^ 4

/-- A flag as a number. -/
def flagBit (b : Bool) : Nat := if b then 1 else 0

/-- `PSTAT`: `calibrated` bit 0, `compvalid` bit 1, `primed` bit 2 (R36). -/
def pstatWord (calibrated compvalid primed : Bool) : Word :=
  BitVec.ofNat 32 (flagBit calibrated + flagBit compvalid * 2 + flagBit primed * 4)

/-- `IIR[u].CTL`: `valid` bit 0, `dp` bits 12:8 (R53). -/
def iirCtlWord (u : Iir) : Word := BitVec.ofNat 32 (flagBit u.valid + u.dp.val * 2 ^ 8)

/-- `FIR[u].CTL`, `SHAL.CTL`, `DEEP.CTL`: `valid` bit 0, `dp` bits 12:8, `cur` bits 20:16 (R53). -/
def firCtlWord (u : Fir) : Word :=
  BitVec.ofNat 32 (flagBit u.valid + u.dp.val * 2 ^ 8 + u.cur.val * 2 ^ 16)

end Sys2Proof.Machine
end

