-- ==== Sys2Proof/Machine/Ops.lean ====
section
/-! DEFINITION. The named operations over the state: reads and writes of each place, raising a fault (the block's
only exception, R231), and how a command ends. -/

namespace Sys2Proof.Machine

/-- `x[i]` (R13). -/
def State.readX (s : State) (i : XReg) : Word := s.x[i.val]

/-- `x[i] <- v` (R13). -/
def State.writeX (s : State) (i : XReg) (v : Word) : State := { s with x := s.x.set i.val v }

/-- `f[i]` (R13). -/
def State.readF (s : State) (i : FReg) : SoftFloat := s.f[i.val]

/-- `f[i] <- v` (R13). -/
def State.writeF (s : State) (i : FReg) (v : SoftFloat) : State := { s with f := s.f.set i.val v }

/-- `iir[u]` (R30). -/
def State.readIir (s : State) (u : UnitId) : Iir := s.iir[u.val]

/-- `iir[u] <- v` (R30). -/
def State.writeIir (s : State) (u : UnitId) (v : Iir) : State := { s with iir := s.iir.set u.val v }

/-- `fir[u]` (R31). -/
def State.readFir (s : State) (u : UnitId) : Fir := s.fir[u.val]

/-- `fir[u] <- v` (R31). -/
def State.writeFir (s : State) (u : UnitId) (v : Fir) : State := { s with fir := s.fir.set u.val v }

/-- `ctx[k]` (R33). -/
def State.readCtx (s : State) (k : CtxId) : Context := s.ctx[k.val]

/-- `ctx[k] <- v` (R33). -/
def State.writeCtx (s : State) (k : CtxId) (v : Context) : State := { s with ctx := s.ctx.set k.val v }

/-- The response to the host's transaction (R17). -/
def State.respond (s : State) (r : Response) : State := { s with response := some r }

/-- `raise <Cause>` for the command word `w`: the fault record and the response, nothing else (R231). -/
def State.raise (s : State) (c : Cause) (w : Word) : State :=
  { s with
    status := stickySet s.status c
    fcause := BitVec.ofNat 4 c.code
    fcmd := w
    errcnt := countFault s.errcnt
    response := some (.fault c) }

/-- Acknowledging the fault record, the nearest thing to a return from a fault: `STATUS`, `FCAUSE` and `FCMD` go to 0
and `ERRCNT` stays (R211, R233). -/
def State.clearFaults (s : State) : State := { s with status := 0, fcause := 0, fcmd := 0 }

/-- How a command ends: with its effect and the response `ok`, or, if any of its checks failed, with the fault
record alone and none of its effect (R231). The word recorded is the command's own (log entry 10). -/
def State.finish (s : State) (i : Instr) (effect : Except Cause State) :
    Host.Outcome State Fault Refusal :=
  match effect with
  | .ok t => .next (t.respond .ok)
  | .error c => .next (s.raise c (encode i))

/-- A check of a command's rule: go on, or raise the cause (R231, R232). -/
def require (b : Bool) (c : Cause) : Except Cause Unit := if b then .ok () else .error c

end Sys2Proof.Machine
end

