-- ==== Sys2Proof/Machine/Operands.lean ====
section
/-! DEFINITION. The operand forms: coefficient fields and raw counts out of the byte buffers, the byte a byte index
names, and the SoftFloat place a CGET index names. -/

namespace Sys2Proof.Machine

/-- The raw field of a coefficient buffer: the bits of the 144-bit string from offset `off`, `width` of them (R161). -/
def rawField (coef : Vector Byte 18) (p : CoefField) : Nat :=
  bigEndian coef.toList / 2 ^ (Config.coefBits - p.off - p.width) % 2 ^ p.width

/-- The sign-extended value of a coefficient field (R161, R162). -/
def coefValue (coef : Vector Byte 18) (p : CoefField) : Int := sextField (rawField coef p) p.width

/-- `adcext`: the signed 24-bit raw count of three bytes (R180). -/
def adcValue (raw : Vector Byte 3) : Int := sextField (bigEndian raw.toList) 24

/-- The raw bytes of a channel (R181). -/
def Context.rawBytes (c : Context) : Channel → Vector Byte 3
  | .temperature => c.rawt
  | .pressure => c.rawp

/-- A store into the byte buffers by byte index: 0..17 `coef`, 18..20 `rawt`, 21..23 `rawp` (R214). Any other index
stores nothing; LDB raises `IllegalCommand` on it before this is reached. -/
def Context.storeByte (c : Context) (idx : Nat) (v : Byte) : Context :=
  if h : idx < 18 then { c with coef := c.coef.set idx v }
  else if h : idx - 18 < 3 then { c with rawt := c.rawt.set (idx - 18) v }
  else if h : idx - 21 < 3 then { c with rawp := c.rawp.set (idx - 21) v }
  else c

/-- The SoftFloat that a CGET index names: 0..8 `c[i]`, 9 `kt`, 10 `kp`, 11 `tcomp`, 12 `pcomp`; 13..15 are illegal
(R168). -/
def Context.named (c : Context) (i : Nat) : Option SoftFloat :=
  if h : i < 9 then some c.c[i]
  else match i with
    | 9 => some c.kt
    | 10 => some c.kp
    | 11 => some c.tcomp
    | 12 => some c.pcomp
    | _ => none

/-- The pipeline filter a selector names (R198). -/
def Context.filter (c : Context) : FilterSel → Fir
  | .shallow => c.shal
  | .deep => c.deep

end Sys2Proof.Machine
end

