-- ==== Sys2Proof/Machine/SoftFloat.lean ====
section
/-! DEFINITION. The SoftFloat arithmetic unit (40_softfloat.md): normalization, the four operations, and the meanings of
FADD, FSUB, FMUL, FDIV, FMULI, FFROM, FMOV, FMANT, FEXP, FSIGN, MSB, LSB. -/

namespace Sys2Proof.Machine

/-- The magnitude of an intermediate result moved so that its most significant bit, at index `i`, lands at bit 30;
bits shifted out are dropped (R101). -/
def alignMagnitude (mag i : Nat) : Nat := if i ≤ 30 then mag * 2 ^ (30 - i) else mag / 2 ^ (i - 30)

/-- `normalize(R, E)` (R101, R102, R103). -/
def normalize (r e : Int) : Except Cause SoftFloat :=
  if r = 0 then .ok SoftFloat.zero
  else
    let i := msbIndex r.natAbs
    let e' := e + (i : Int) - 30
    if fitsInt32 e' then
      .ok { mant := int32 (sgn r * (alignMagnitude r.natAbs i : Int)), exp := int32 e' }
    else .error .exponentRange

/-- `addsub(a, b, neg)`: add for `neg` false, subtract for `neg` true (R105, R106). -/
def addsub (a b : SoftFloat) (neg : Bool) : Except Cause SoftFloat :=
  let am := a.mant.toInt
  let bm := if neg then -b.mant.toInt else b.mant.toInt
  if am = 0 then .ok { mant := int32 bm, exp := b.exp }
  else if bm = 0 then .ok a
  else
    let d := clamp (a.exp.toInt - b.exp.toInt) (-31) 31
    if 0 ≤ d then normalize (am + shrTz bm d.toNat) a.exp.toInt
    else normalize (shrTz am (-d).toNat + bm) b.exp.toInt

/-- The sum `a + b` (R110). -/
def fAdd (a b : SoftFloat) : Except Cause SoftFloat := addsub a b false

/-- The difference `a - b` (R111). -/
def fSub (a b : SoftFloat) : Except Cause SoftFloat := addsub a b true

/-- The product `a * b` (R112). -/
def fMul (a b : SoftFloat) : Except Cause SoftFloat :=
  normalize (a.mant.toInt * b.mant.toInt) (a.exp.toInt + b.exp.toInt)

/-- The quotient `a / b`; a divisor of mantissa 0 is tested first (R113). -/
def fDiv (a b : SoftFloat) : Except Cause SoftFloat :=
  if b.mant.toInt = 0 then .error .divisionByZero
  else normalize (tquot (shl a.mant.toInt 32) b.mant.toInt) (a.exp.toInt - b.exp.toInt - 32)

/-- The product of a SoftFloat and an integer (R114). -/
def fMulInt (a : SoftFloat) (n : Int) : Except Cause SoftFloat :=
  normalize (a.mant.toInt * n) a.exp.toInt

/-- The result of MSB on a 32-bit pattern: `-1` for zero (R120). -/
def msbResult (v : Word) : Int := if v.toNat = 0 then -1 else (msbIndex v.toNat : Int)

/-- The result of LSB on a 32-bit pattern: `-1` for zero (R121). -/
def lsbResult (v : Word) : Int := if v.toNat = 0 then -1 else (lsbIndex v.toNat : Int)

/-- FADD (R110). -/
def execFadd (fd fa fb : FReg) (s : State) : Host.Outcome State Fault Refusal :=
  s.finish (.fadd fd fa fb) ((fAdd (s.readF fa) (s.readF fb)).map (s.writeF fd))

/-- FSUB (R111). -/
def execFsub (fd fa fb : FReg) (s : State) : Host.Outcome State Fault Refusal :=
  s.finish (.fsub fd fa fb) ((fSub (s.readF fa) (s.readF fb)).map (s.writeF fd))

/-- FMUL (R112). -/
def execFmul (fd fa fb : FReg) (s : State) : Host.Outcome State Fault Refusal :=
  s.finish (.fmul fd fa fb) ((fMul (s.readF fa) (s.readF fb)).map (s.writeF fd))

/-- FDIV (R113). -/
def execFdiv (fd fa fb : FReg) (s : State) : Host.Outcome State Fault Refusal :=
  s.finish (.fdiv fd fa fb) ((fDiv (s.readF fa) (s.readF fb)).map (s.writeF fd))

/-- FMULI (R114). -/
def execFmuli (fd fa : FReg) (xb : XReg) (s : State) : Host.Outcome State Fault Refusal :=
  s.finish (.fmuli fd fa xb) ((fMulInt (s.readF fa) (s.readX xb).toInt).map (s.writeF fd))

/-- FFROM (R115). -/
def execFfrom (fd : FReg) (xa xb : XReg) (s : State) : Host.Outcome State Fault Refusal :=
  s.finish (.ffrom fd xa xb) ((normalize (s.readX xa).toInt (s.readX xb).toInt).map (s.writeF fd))

/-- FMOV (R116). -/
def execFmov (fd fa : FReg) (s : State) : Host.Outcome State Fault Refusal :=
  s.finish (.fmov fd fa) (.ok (s.writeF fd (s.readF fa)))

/-- FMANT (R117). -/
def execFmant (xd : XReg) (fa : FReg) (s : State) : Host.Outcome State Fault Refusal :=
  s.finish (.fmant xd fa) (.ok (s.writeX xd (s.readF fa).mant))

/-- FEXP (R118). -/
def execFexp (xd : XReg) (fa : FReg) (s : State) : Host.Outcome State Fault Refusal :=
  s.finish (.fexp xd fa) (.ok (s.writeX xd (s.readF fa).exp))

/-- FSIGN (R119). -/
def execFsign (xd : XReg) (fa : FReg) (s : State) : Host.Outcome State Fault Refusal :=
  s.finish (.fsign xd fa) (.ok (s.writeX xd (int32 (sgn (s.readF fa).mant.toInt))))

/-- MSB (R120). -/
def execMsb (xd xa : XReg) (s : State) : Host.Outcome State Fault Refusal :=
  s.finish (.msb xd xa) (.ok (s.writeX xd (int32 (msbResult (s.readX xa)))))

/-- LSB (R121). -/
def execLsb (xd xa : XReg) (s : State) : Host.Outcome State Fault Refusal :=
  s.finish (.lsb xd xa) (.ok (s.writeX xd (int32 (lsbResult (s.readX xa)))))

end Sys2Proof.Machine
end

