-- ==== Sys2Proof/Machine/Calibration.lean ====
section
/-! DEFINITION. The calibration decoder (42_calibration.md): CEXT, KSEL, KSET, CINIT, CGET. -/

namespace Sys2Proof.Machine

/-- `n[0..8]` of CINIT: the decoded integers `r` divided by the scale factors by degree, pressure factors first
(R167, conflict C7 for `c21`). -/
def scaleCoefs (r : Vector Word 9) (kT kP : SoftFloat) : Except Cause (Vector SoftFloat 9) := do
  let n0 ← normalize r[0].toInt 0
  let n1 ← fDiv (← normalize r[1].toInt 0) kT
  let n2 ← normalize r[2].toInt 0
  let n3 ← fDiv (← normalize r[3].toInt 0) kP
  let n4 ← fDiv (← normalize r[4].toInt 0) kT
  let n5 ← fDiv (← fDiv (← normalize r[5].toInt 0) kP) kT
  let n6 ← fDiv (← fDiv (← normalize r[6].toInt 0) kP) kP
  let n7 ← fDiv (← fDiv (← fDiv (← normalize r[7].toInt 0) kP) kP) kT
  let n8 ← fDiv (← fDiv (← fDiv (← normalize r[8].toInt 0) kP) kP) kP
  return #v[n0, n1, n2, n3, n4, n5, n6, n7, n8]

/-- `r[0..8]` of CINIT: the nine decoded fields (R161, R167). -/
def decodeCoefs (layout : Vector CoefField 9) (coef : Vector Byte 18) : Vector Word 9 :=
  #v[int32 (coefValue coef layout[0]), int32 (coefValue coef layout[1]), int32 (coefValue coef layout[2]),
     int32 (coefValue coef layout[3]), int32 (coefValue coef layout[4]), int32 (coefValue coef layout[5]),
     int32 (coefValue coef layout[6]), int32 (coefValue coef layout[7]), int32 (coefValue coef layout[8])]

/-- A scale factor of the table, by oversampling code (R164). -/
def scaleFactor (p : Params) (code : Fin 8) : Except Cause SoftFloat :=
  normalize (p.scaleTable[code.val]).toInt 0

/-- A context with the scale factor of a channel replaced (R166). -/
def Context.setScale (c : Context) (v : SoftFloat) : Channel → Context
  | .temperature => { c with kt := v }
  | .pressure => { c with kp := v }

/-- The context after CINIT, or the cause it raises, in the order of R232 (R167). -/
def calibrate (p : Params) (c : Context) : Except Cause Context := do
  require (!c.calibrated) .configLocked
  require (c.kt.mant != 0 && c.kp.mant != 0) .divisionByZero
  let r := decodeCoefs p.coefLayout c.coef
  let n ← scaleCoefs r c.kt c.kp
  return { c with craw := r, c := n, calibrated := true }

/-- CEXT (R162); an index above 8 makes the word illegal (R72, R76). -/
def execCext (xd : XReg) (k : CtxId) (i : BitVec 4) (s : State) : Host.Outcome State Fault Refusal :=
  s.finish (.cext xd k i)
    (if h : i.toNat < 9 then
      .ok (s.writeX xd (int32 (coefValue (s.readCtx k).coef s.params.coefLayout[i.toNat])))
    else .error .illegalCommand)

/-- KSEL (R165). -/
def execKsel (k : CtxId) (s : State) : Host.Outcome State Fault Refusal :=
  s.finish (.ksel k) do
    require (!(s.readCtx k).calibrated) .configLocked
    let kT ← scaleFactor s.params (tOsr (s.readCtx k).mcfg)
    let kP ← scaleFactor s.params (pOsr (s.readCtx k).mcfg)
    return s.writeCtx k { s.readCtx k with kt := kT, kp := kP }

/-- KSET (R166). -/
def execKset (k : CtxId) (fa : FReg) (ch : Channel) (s : State) : Host.Outcome State Fault Refusal :=
  s.finish (.kset k fa ch) do
    require (!(s.readCtx k).calibrated) .configLocked
    return s.writeCtx k ((s.readCtx k).setScale (s.readF fa) ch)

/-- CINIT (R167). -/
def execCinit (k : CtxId) (s : State) : Host.Outcome State Fault Refusal :=
  s.finish (.cinit k) ((calibrate s.params (s.readCtx k)).map (s.writeCtx k))

/-- CGET (R168); an index above 12 makes the word illegal (R72, R76). -/
def execCget (fd : FReg) (k : CtxId) (i : BitVec 4) (s : State) : Host.Outcome State Fault Refusal :=
  s.finish (.cget fd k i)
    (match (s.readCtx k).named i.toNat with
    | some v => .ok (s.writeF fd v)
    | none => .error .illegalCommand)

end Sys2Proof.Machine
end

