-- ==== Sys2Proof/Machine/Compensation.lean ====
section
/-! DEFINITION. The compensation evaluator (43_compensation.md): ADCEXT, COMP. -/

namespace Sys2Proof.Machine

/-- `c0 + c1*t` (R182). -/
def compTemperature (coefs : Vector SoftFloat 9) (t : SoftFloat) : Except Cause SoftFloat := do
  fAdd coefs[0] (← fMul coefs[1] t)

/-- The pressure polynomial in the order of R182: Horner form in `p`, then `c01*t`, then `(c11*p)*t`; `c21` is not
used (R184). -/
def compPressure (coefs : Vector SoftFloat 9) (t p : SoftFloat) : Except Cause SoftFloat := do
  let h ← fMul coefs[8] p
  let h ← fAdd coefs[6] h
  let h ← fMul h p
  let h ← fAdd coefs[3] h
  let h ← fMul h p
  let h ← fAdd coefs[2] h
  let h ← fAdd h (← fMul coefs[4] t)
  fAdd h (← fMul (← fMul coefs[5] p) t)

/-- The context after COMP, or the cause it raises, in the order of R232 (R182). -/
def compensate (c : Context) : Except Cause Context := do
  require c.calibrated .notCalibrated
  let t ← normalize (adcValue c.rawt) 0
  let p ← normalize (adcValue c.rawp) 0
  let temperature ← compTemperature c.c t
  let pressure ← compPressure c.c t p
  return { c with tcomp := temperature, pcomp := pressure, compvalid := true }

/-- ADCEXT (R181). -/
def execAdcext (xd : XReg) (k : CtxId) (ch : Channel) (s : State) : Host.Outcome State Fault Refusal :=
  s.finish (.adcext xd k ch) (.ok (s.writeX xd (int32 (adcValue ((s.readCtx k).rawBytes ch)))))

/-- COMP (R182). -/
def execComp (k : CtxId) (s : State) : Host.Outcome State Fault Refusal :=
  s.finish (.comp k) ((compensate (s.readCtx k)).map (s.writeCtx k))

end Sys2Proof.Machine
end

