-- ==== Sys2Proof/Machine/Filters.lean ====
section
/-! DEFINITION. The low-pass filter units (41_filters.md): the IIR and FIR functions and the meanings of IIRNEW, IIRPUSH,
IIRAVG, FIRNEW, FIRPUSH, FIRAVG. -/

namespace Sys2Proof.Machine

/-- `iir_new(dp, init)` (R143). -/
def iirNew (dp : Fin 32) (init : Word) : Iir :=
  { valid := true, dp := dp, avg := init, sum := int64 (shl init.toInt dp.val) }

/-- `iir_push(F, s)`: the sum uses the old average, the average uses the new sum (R143). -/
def iirPush (u : Iir) (sample : Word) : Iir :=
  let sum := u.sum.toInt + sample.toInt - u.avg.toInt
  { u with sum := int64 sum, avg := int32 (asr sum u.dp.val) }

/-- Slots `0 .. n - 1` of a ring set to one value, the others as they were (R148). -/
def fillSlots : Nat → Word → Vector Word 32 → Vector Word 32
  | 0, _, buf => buf
  | n + 1, v, buf => (fillSlots n v buf).setIfInBounds n v

/-- `fir_new(dp, init)` on a unit that held `old` (R148). -/
def firNew (old : Fir) (dp : Fin 6) (init : Word) : Fir :=
  { valid := true
    dp := dp
    avg := init
    sum := int64 (shl init.toInt dp.val)
    buf := fillSlots (2 ^ dp.val) init old.buf
    cur := 0 }

/-- The cursor after a push (R148). -/
def nextSlot (cur : Fin 32) (dp : Fin 6) : Fin 32 :=
  ⟨(cur.val + 1) % 2 ^ dp.val % 32, Nat.mod_lt _ (by decide)⟩

/-- `fir_push(F, s)` (R148). -/
def firPush (u : Fir) (sample : Word) : Fir :=
  let sum := u.sum.toInt + sample.toInt - (u.buf[u.cur.val]).toInt
  { u with
    buf := u.buf.set u.cur.val sample
    cur := nextSlot u.cur u.dp
    sum := int64 sum
    avg := int32 (asr sum u.dp.val) }

/-- A depth power for an IIR unit, or `FilterConfig` (R141, R144). -/
def iirDepth (dp : Nat) : Except Cause (Fin 32) :=
  if h : dp ≤ Config.iirDpMax then .ok ⟨dp, Nat.lt_succ_of_le h⟩ else .error .filterConfig

/-- A depth power for a FIR unit, or `FilterConfig` (R141, R149, R192). -/
def firDepth (dp : Nat) : Except Cause (Fin 6) :=
  if h : dp ≤ Config.firDpMax then .ok ⟨dp, Nat.lt_succ_of_le h⟩ else .error .filterConfig

/-- IIRNEW (R144). -/
def execIirnew (u : UnitId) (xa : XReg) (dp : BitVec 12) (s : State) : Host.Outcome State Fault Refusal :=
  s.finish (.iirnew u xa dp) do
    let depth ← iirDepth dp.toNat
    return s.writeIir u (iirNew depth (s.readX xa))

/-- IIRPUSH (R145). -/
def execIirpush (u : UnitId) (xa : XReg) (s : State) : Host.Outcome State Fault Refusal :=
  s.finish (.iirpush u xa) do
    require (s.readIir u).valid .filterInvalid
    return s.writeIir u (iirPush (s.readIir u) (s.readX xa))

/-- IIRAVG (R146). -/
def execIiravg (xd : XReg) (u : UnitId) (s : State) : Host.Outcome State Fault Refusal :=
  s.finish (.iiravg xd u) do
    require (s.readIir u).valid .filterInvalid
    return s.writeX xd (s.readIir u).avg

/-- FIRNEW (R149). -/
def execFirnew (u : UnitId) (xa : XReg) (dp : BitVec 12) (s : State) : Host.Outcome State Fault Refusal :=
  s.finish (.firnew u xa dp) do
    let depth ← firDepth dp.toNat
    return s.writeFir u (firNew (s.readFir u) depth (s.readX xa))

/-- FIRPUSH (R150). -/
def execFirpush (u : UnitId) (xa : XReg) (s : State) : Host.Outcome State Fault Refusal :=
  s.finish (.firpush u xa) do
    require (s.readFir u).valid .filterInvalid
    return s.writeFir u (firPush (s.readFir u) (s.readX xa))

/-- FIRAVG (R151). -/
def execFiravg (xd : XReg) (u : UnitId) (s : State) : Host.Outcome State Fault Refusal :=
  s.finish (.firavg xd u) do
    require (s.readFir u).valid .filterInvalid
    return s.writeX xd (s.readFir u).avg

end Sys2Proof.Machine
end

