-- ==== Sys2Proof/Machine/Pipeline.lean ====
section
/-! DEFINITION. The dual filter pipeline and the anemometer difference (44_pipeline.md): PFEED, PSHAL, PDEEP, PSNAP,
ADIFF, PRESET. -/

namespace Sys2Proof.Machine

/-- `pipe_sample(m, e, fexp)`: the integer that stands for a sample at scale `2^fexp` (R193, R194). -/
def pipeSample (v : SoftFloat) (fexp : Int) : Except Cause Word :=
  if v.mant.toInt = 0 then .ok 0
  else if fexp < v.exp.toInt then .error .pipelineRange
  else .ok (int32 (shrTz v.mant.toInt (min (fexp - v.exp.toInt) 31).toNat))

/-- `pipe_value(F, fexp) = normalize(F.avg, fexp)` (R195). -/
def pipeValue (u : Fir) (fexp : Word) : Except Cause SoftFloat := normalize u.avg.toInt fexp.toInt

/-- Priming: the first sample fixes the scale and fills both filters (R191, R192). -/
def prime (c : Context) : Except Cause Context := do
  let depthS ← firDepth (sdp c.fcfg)
  let depthD ← firDepth (ddp c.fcfg)
  let e := c.pcomp.exp.toInt + (fhead c.fcfg : Int)
  require (decide (e ≤ 2147483647)) .exponentRange
  let sample := int32 (shrTz c.pcomp.mant.toInt (fhead c.fcfg))
  return { c with
    fexp := int32 e
    shal := firNew c.shal depthS sample
    deep := firNew c.deep depthD sample
    primed := true }

/-- A primed feed: the same integer is pushed into both filters (R190, R192). -/
def feedPrimed (c : Context) : Except Cause Context := do
  let sample ← pipeSample c.pcomp c.fexp.toInt
  return { c with shal := firPush c.shal sample, deep := firPush c.deep sample }

/-- The context after PFEED, or the cause it raises, in the order of R232 (R192). -/
def feed (c : Context) : Except Cause Context := do
  require c.compvalid .noSample
  if c.primed then feedPrimed c else prime c

/-- A context with its pipeline at the reset values (R200). -/
def Context.resetPipeline (c : Context) : Context :=
  { c with primed := false, fexp := 0, shal := Fir.reset, deep := Fir.reset }

/-- `deep` of the context of total pressure minus `deep` of the reference context (R199). -/
def pressureDifference (total static : Context) : Except Cause SoftFloat := do
  require (total.primed && static.primed) .notPrimed
  let t ← pipeValue total.deep total.fexp
  let p ← pipeValue static.deep static.fexp
  fSub t p

/-- PFEED (R192). -/
def execPfeed (k : CtxId) (s : State) : Host.Outcome State Fault Refusal :=
  s.finish (.pfeed k) ((feed (s.readCtx k)).map (s.writeCtx k))

/-- PSHAL (R196). -/
def execPshal (fd : FReg) (k : CtxId) (s : State) : Host.Outcome State Fault Refusal :=
  s.finish (.pshal fd k) do
    require (s.readCtx k).primed .notPrimed
    return s.writeF fd (← pipeValue (s.readCtx k).shal (s.readCtx k).fexp)

/-- PDEEP (R197). -/
def execPdeep (fd : FReg) (k : CtxId) (s : State) : Host.Outcome State Fault Refusal :=
  s.finish (.pdeep fd k) do
    require (s.readCtx k).primed .notPrimed
    return s.writeF fd (← pipeValue (s.readCtx k).deep (s.readCtx k).fexp)

/-- PSNAP: the average into `x[xd]` and the pipeline exponent into `x[xd + 1]`, in one command; `xd = 7` makes the word
illegal (R72, R76, R198). -/
def execPsnap (xd : XReg) (k : CtxId) (sel : FilterSel) (s : State) : Host.Outcome State Fault Refusal :=
  s.finish (.psnap xd k sel)
    (if h : xd.val + 1 < 8 then do
      require (s.readCtx k).primed .notPrimed
      return (s.writeX xd ((s.readCtx k).filter sel).avg).writeX ⟨xd.val + 1, h⟩ (s.readCtx k).fexp
    else .error .illegalCommand)

/-- ADIFF (R199). -/
def execAdiff (fd : FReg) (kt ks : CtxId) (s : State) : Host.Outcome State Fault Refusal :=
  s.finish (.adiff fd kt ks) ((pressureDifference (s.readCtx kt) (s.readCtx ks)).map (s.writeF fd))

/-- PRESET (R200). -/
def execPreset (k : CtxId) (s : State) : Host.Outcome State Fault Refusal :=
  s.finish (.preset k) (.ok (s.writeCtx k (s.readCtx k).resetPipeline))

end Sys2Proof.Machine
end

