-- ==== Sys2Proof/Machine/System.lean ====
section
/-! DEFINITION. The system commands NOP, FCLR, XLI, XLIH, LDB (45_system.md). -/

namespace Sys2Proof.Machine

/-- NOP (R210). -/
def execNop (s : State) : Host.Outcome State Fault Refusal := s.finish .nop (.ok s)

/-- FCLR (R211). -/
def execFclr (s : State) : Host.Outcome State Fault Refusal := s.finish .fclr (.ok s.clearFaults)

/-- XLI (R212). -/
def execXli (xd : XReg) (imm16 : BitVec 16) (s : State) : Host.Outcome State Fault Refusal :=
  s.finish (.xli xd imm16) (.ok (s.writeX xd (sext16 imm16)))

/-- XLIH: bits 31:16 from the immediate, bits 15:0 kept (R213). -/
def execXlih (xd : XReg) (imm16 : BitVec 16) (s : State) : Host.Outcome State Fault Refusal :=
  s.finish (.xlih xd imm16)
    (.ok (s.writeX xd (BitVec.ofNat 32 (imm16.toNat * 65536 + (s.readX xd).toNat % 65536))))

/-- LDB (R214); an index above 23 makes the word illegal (R73, R76). -/
def execLdb (k : CtxId) (idx : BitVec 8) (byte : Byte) (s : State) : Host.Outcome State Fault Refusal :=
  s.finish (.ldb k idx byte) do
    require (decide (idx.toNat ≤ 23)) .illegalCommand
    return s.writeCtx k ((s.readCtx k).storeByte idx.toNat byte)

end Sys2Proof.Machine
end

