-- ==== Sys2Proof/Machine/Dispatch.lean ====
section
/-! DEFINITION. The meaning of every command: one arm per constructor of Instr. -/

namespace Sys2Proof.Machine

/-- One command, run to completion (R16). -/
def exec (i : Instr) (s : State) : Host.Outcome State Fault Refusal :=
  match i with
  -- system
  | .nop => Sys2Proof.Machine.execNop s
  | .fclr => Sys2Proof.Machine.execFclr s
  | .xli xd imm16 => Sys2Proof.Machine.execXli xd imm16 s
  | .xlih xd imm16 => Sys2Proof.Machine.execXlih xd imm16 s
  | .ldb k idx byte => Sys2Proof.Machine.execLdb k idx byte s
  -- SoftFloat
  | .fadd fd fa fb => Sys2Proof.Machine.execFadd fd fa fb s
  | .fsub fd fa fb => Sys2Proof.Machine.execFsub fd fa fb s
  | .fmul fd fa fb => Sys2Proof.Machine.execFmul fd fa fb s
  | .fdiv fd fa fb => Sys2Proof.Machine.execFdiv fd fa fb s
  | .fmuli fd fa xb => Sys2Proof.Machine.execFmuli fd fa xb s
  | .ffrom fd xa xb => Sys2Proof.Machine.execFfrom fd xa xb s
  | .fmov fd fa => Sys2Proof.Machine.execFmov fd fa s
  | .fmant xd fa => Sys2Proof.Machine.execFmant xd fa s
  | .fexp xd fa => Sys2Proof.Machine.execFexp xd fa s
  | .fsign xd fa => Sys2Proof.Machine.execFsign xd fa s
  | .msb xd xa => Sys2Proof.Machine.execMsb xd xa s
  | .lsb xd xa => Sys2Proof.Machine.execLsb xd xa s
  -- filters
  | .iirnew u xa dp => Sys2Proof.Machine.execIirnew u xa dp s
  | .iirpush u xa => Sys2Proof.Machine.execIirpush u xa s
  | .iiravg xd u => Sys2Proof.Machine.execIiravg xd u s
  | .firnew u xa dp => Sys2Proof.Machine.execFirnew u xa dp s
  | .firpush u xa => Sys2Proof.Machine.execFirpush u xa s
  | .firavg xd u => Sys2Proof.Machine.execFiravg xd u s
  -- calibration
  | .cext xd k idx => Sys2Proof.Machine.execCext xd k idx s
  | .ksel k => Sys2Proof.Machine.execKsel k s
  | .kset k fa ch => Sys2Proof.Machine.execKset k fa ch s
  | .cinit k => Sys2Proof.Machine.execCinit k s
  | .cget fd k idx => Sys2Proof.Machine.execCget fd k idx s
  -- compensation
  | .adcext xd k ch => Sys2Proof.Machine.execAdcext xd k ch s
  | .comp k => Sys2Proof.Machine.execComp k s
  -- pipeline
  | .pfeed k => Sys2Proof.Machine.execPfeed k s
  | .pshal fd k => Sys2Proof.Machine.execPshal fd k s
  | .pdeep fd k => Sys2Proof.Machine.execPdeep fd k s
  | .psnap xd k sel => Sys2Proof.Machine.execPsnap xd k sel s
  | .adiff fd kt ks => Sys2Proof.Machine.execAdiff fd kt ks s
  | .preset k => Sys2Proof.Machine.execPreset k s

end Sys2Proof.Machine
end

