-- ==== Sys2Proof/Machine/Port.lean ====
section
/-! DEFINITION. The host port: the register map (R53), reads and writes (R52), and the acceptance of the host's next
event (R61). -/

namespace Sys2Proof.Machine

/-- The four port words that show a filter unit (R30, R31, R53). -/
inductive FilterWord where
  | ctl
  | avg
  | sumLo
  | sumHi
deriving DecidableEq, Repr

/-- A FIR unit of the block: a stand-alone one, or a pipeline filter of a context (R31). -/
inductive FirUnit where
  | alone (u : UnitId)
  | shallow (k : CtxId)
  | deep (k : CtxId)
deriving DecidableEq, Repr

/-- A SoftFloat place of the block (R20, R22, R37). -/
inductive Place where
  | f (i : FReg)
  | kt (k : CtxId)
  | kp (k : CtxId)
  | tcomp (k : CtxId)
  | pcomp (k : CtxId)
  | c (k : CtxId) (i : Fin 9)
deriving DecidableEq, Repr

/-- A mapped port register (R53). -/
inductive PortReg where
  | cmd
  | status
  | fcause
  | fcmd
  | errcnt
  | x (i : XReg)
  | mant (p : Place)
  | exp (p : Place)
  | iir (u : UnitId) (w : FilterWord)
  | fir (u : FirUnit) (w : FilterWord)
  | slot (u : FirUnit) (j : Fin 32)
  | mcfg (k : CtxId)
  | fcfg (k : CtxId)
  | pstat (k : CtxId)
  | fexp (k : CtxId)
  | coef (k : CtxId) (i : Fin 18)
  | rawt (k : CtxId) (i : Fin 3)
  | rawp (k : CtxId) (i : Fin 3)
  | craw (k : CtxId) (i : Fin 9)
deriving DecidableEq, Repr

/-- How a port register may be accessed (R53). -/
inductive Access where
  | rw
  | ro
  | wo
  | w1c
deriving DecidableEq, Repr

/-- The access of a register (R53, R55). -/
def PortReg.access : PortReg → Access
  | .cmd => .wo
  | .status => .w1c
  | .fcause => .ro
  | .fcmd => .ro
  | .errcnt => .ro
  | .x _ => .rw
  | .mant _ => .ro
  | .exp _ => .ro
  | .iir _ _ => .ro
  | .fir _ _ => .ro
  | .slot _ _ => .ro
  | .mcfg _ => .rw
  | .fcfg _ => .rw
  | .pstat _ => .ro
  | .fexp _ => .ro
  | .coef _ _ => .rw
  | .rawt _ _ => .rw
  | .rawp _ _ => .rw
  | .craw _ _ => .ro

/-- The base `B(k)` of a context's registers (R53). -/
def ctxBase (k : CtxId) : Nat := 0x100 + 0x100 * k.val

/-- The offset of a filter word from its unit's `CTL` (R53). -/
def FilterWord.offset : FilterWord → Nat
  | .ctl => 0
  | .avg => 1
  | .sumLo => 2
  | .sumHi => 3

/-- The number of a FIR unit's `CTL` (R53). -/
def FirUnit.ctlNumber : FirUnit → Nat
  | .alone u => 0x080 + 0x40 * u.val
  | .shallow k => ctxBase k + 0x60
  | .deep k => ctxBase k + 0x68

/-- The number of a FIR unit's slot 0 (R53). -/
def FirUnit.slotNumber : FirUnit → Nat
  | .alone u => 0x0A0 + 0x40 * u.val
  | .shallow k => ctxBase k + 0x80
  | .deep k => ctxBase k + 0xA0

/-- The number of a place's `MANT`; its `EXP` is the next (R53). -/
def Place.mantNumber : Place → Nat
  | .f i => 0x020 + 2 * i.val
  | .kt k => ctxBase k + 0x04
  | .kp k => ctxBase k + 0x06
  | .tcomp k => ctxBase k + 0x08
  | .pcomp k => ctxBase k + 0x0A
  | .c k i => ctxBase k + 0x40 + 2 * i.val

/-- The register number of R53's table. -/
def PortReg.number : PortReg → Nat
  | .cmd => 0x000
  | .status => 0x001
  | .fcause => 0x002
  | .fcmd => 0x003
  | .errcnt => 0x004
  | .x i => 0x008 + i.val
  | .mant p => p.mantNumber
  | .exp p => p.mantNumber + 1
  | .iir u w => 0x040 + 8 * u.val + w.offset
  | .fir u w => u.ctlNumber + w.offset
  | .slot u j => u.slotNumber + j.val
  | .mcfg k => ctxBase k + 0x00
  | .fcfg k => ctxBase k + 0x01
  | .pstat k => ctxBase k + 0x02
  | .fexp k => ctxBase k + 0x03
  | .coef k i => ctxBase k + 0x10 + i.val
  | .rawt k i => ctxBase k + 0x24 + i.val
  | .rawp k i => ctxBase k + 0x28 + i.val
  | .craw k i => ctxBase k + 0x30 + i.val

/-- A filter word by its offset from `CTL`. -/
def filterWordOf : Nat → Option FilterWord
  | 0 => some .ctl
  | 1 => some .avg
  | 2 => some .sumLo
  | 3 => some .sumHi
  | _ => none

/-- One of the two words of a place. -/
def placeWord (p : Place) (second : Nat) : PortReg := if second = 0 then .mant p else .exp p

/-- The registers of a context by offset from `B(k)` (R53). -/
def contextReg (k : CtxId) (o : Nat) : Option PortReg :=
  if o = 0x00 then some (.mcfg k)
  else if o = 0x01 then some (.fcfg k)
  else if o = 0x02 then some (.pstat k)
  else if o = 0x03 then some (.fexp k)
  else if o < 0x06 then some (placeWord (.kt k) (o - 0x04))
  else if o < 0x08 then some (placeWord (.kp k) (o - 0x06))
  else if o < 0x0A then some (placeWord (.tcomp k) (o - 0x08))
  else if o < 0x0C then some (placeWord (.pcomp k) (o - 0x0A))
  else if o < 0x10 then none
  else if h : o - 0x10 < 18 then some (.coef k ⟨o - 0x10, h⟩)
  else if o < 0x24 then none
  else if h : o - 0x24 < 3 then some (.rawt k ⟨o - 0x24, h⟩)
  else if o < 0x28 then none
  else if h : o - 0x28 < 3 then some (.rawp k ⟨o - 0x28, h⟩)
  else if o < 0x30 then none
  else if h : o - 0x30 < 9 then some (.craw k ⟨o - 0x30, h⟩)
  else if o < 0x40 then none
  else if h : (o - 0x40) / 2 < 9 then some (placeWord (.c k ⟨(o - 0x40) / 2, h⟩) ((o - 0x40) % 2))
  else if o < 0x60 then none
  else if o < 0x68 then (filterWordOf (o - 0x60)).map (.fir (.shallow k))
  else if o < 0x80 then (filterWordOf (o - 0x68)).map (.fir (.deep k))
  else if h : o - 0x80 < 32 then some (.slot (.shallow k) ⟨o - 0x80, h⟩)
  else if h : o - 0xA0 < 32 then some (.slot (.deep k) ⟨o - 0xA0, h⟩)
  else none

/-- The registers of a stand-alone FIR unit by offset from `0x080 + 0x40u` (R53). -/
def firReg (u : UnitId) (o : Nat) : Option PortReg :=
  if o < 0x20 then (filterWordOf o).map (.fir (.alone u))
  else if h : o - 0x20 < 32 then some (.slot (.alone u) ⟨o - 0x20, h⟩)
  else none

/-- The registers below the contexts by number (R53). -/
def globalReg (n : Nat) : Option PortReg :=
  if n = 0x000 then some .cmd
  else if n = 0x001 then some .status
  else if n = 0x002 then some .fcause
  else if n = 0x003 then some .fcmd
  else if n = 0x004 then some .errcnt
  else if n < 0x008 then none
  else if h : n - 0x008 < 8 then some (.x ⟨n - 0x008, h⟩)
  else if n < 0x020 then none
  else if h : (n - 0x020) / 2 < 16 then some (placeWord (.f ⟨(n - 0x020) / 2, h⟩) ((n - 0x020) % 2))
  else if h : (n - 0x040) / 8 < 2 then (filterWordOf ((n - 0x040) % 8)).map (.iir ⟨(n - 0x040) / 8, h⟩)
  else if n < 0x080 then none
  else if h : (n - 0x080) / 0x40 < 2 then firReg ⟨(n - 0x080) / 0x40, h⟩ ((n - 0x080) % 0x40)
  else none

/-- The register map over the port space `0x000` to `0x2FF`: the register a number names, `none` for an unmapped
number (R51, R53). -/
def portMap (n : Nat) : Option PortReg :=
  if n < 0x100 then globalReg n
  else if n < 0x200 then contextReg 0 (n - 0x100)
  else if n < 0x300 then contextReg 1 (n - 0x200)
  else none

/-- The value in a SoftFloat place. -/
def State.place (s : State) : Place → SoftFloat
  | .f i => s.readF i
  | .kt k => (s.readCtx k).kt
  | .kp k => (s.readCtx k).kp
  | .tcomp k => (s.readCtx k).tcomp
  | .pcomp k => (s.readCtx k).pcomp
  | .c k i => (s.readCtx k).c[i.val]

/-- The contents of a FIR unit. -/
def State.firUnit (s : State) : FirUnit → Fir
  | .alone u => s.readFir u
  | .shallow k => (s.readCtx k).shal
  | .deep k => (s.readCtx k).deep

/-- Bits 31:0 of a running sum (R57). -/
def sumLow (v : Dword) : Word := v.extractLsb' 0 32

/-- Bits 63:32 of a running sum (R57). -/
def sumHigh (v : Dword) : Word := v.extractLsb' 32 32

/-- A filter word of an IIR unit (R53). -/
def Iir.word (u : Iir) : FilterWord → Word
  | .ctl => iirCtlWord u
  | .avg => u.avg
  | .sumLo => sumLow u.sum
  | .sumHi => sumHigh u.sum

/-- A filter word of a FIR unit (R53). -/
def Fir.word (u : Fir) : FilterWord → Word
  | .ctl => firCtlWord u
  | .avg => u.avg
  | .sumLo => sumLow u.sum
  | .sumHi => sumHigh u.sum

/-- The value a read of a mapped register returns; `CMD` is write-only and reads 0 (R25, R52, R53, R56). -/
def State.regValue (s : State) : PortReg → Word
  | .cmd => 0
  | .status => s.status
  | .fcause => s.fcause.zeroExtend 32
  | .fcmd => s.fcmd
  | .errcnt => s.errcnt
  | .x i => s.readX i
  | .mant p => (s.place p).mant
  | .exp p => (s.place p).exp
  | .iir u w => (s.readIir u).word w
  | .fir u w => (s.firUnit u).word w
  | .slot u j => (s.firUnit u).buf[j.val]
  | .mcfg k => (s.readCtx k).mcfg
  | .fcfg k => (s.readCtx k).fcfg
  | .pstat k => pstatWord (s.readCtx k).calibrated (s.readCtx k).compvalid (s.readCtx k).primed
  | .fexp k => (s.readCtx k).fexp
  | .coef k i => zextByte (s.readCtx k).coef[i.val]
  | .rawt k i => zextByte (s.readCtx k).rawt[i.val]
  | .rawp k i => zextByte (s.readCtx k).rawp[i.val]
  | .craw k i => (s.readCtx k).craw[i.val]

/-- `MemRead(r, 4)`: an unmapped number reads 0 (R52, R234). -/
def State.portRead (s : State) (r : Nat) : Word :=
  match portMap r with
  | some reg => s.regValue reg
  | none => 0

/-- The store of a host write into a mapped register other than `CMD`: write-one-to-clear for `STATUS`, the writable
bits for a read-write register, nothing for a read-only one (R26, R52, R55, R56). `CMD` stores nothing (R25). -/
def State.storeReg (s : State) (reg : PortReg) (v : Word) : State :=
  match reg with
  | .cmd => s
  | .status => { s with status := stickyClear s.status v }
  | .fcause => s
  | .fcmd => s
  | .errcnt => s
  | .x i => s.writeX i v
  | .mant _ => s
  | .exp _ => s
  | .iir _ _ => s
  | .fir _ _ => s
  | .slot _ _ => s
  | .mcfg k => s.writeCtx k { s.readCtx k with mcfg := v &&& mcfgMask }
  | .fcfg k => s.writeCtx k { s.readCtx k with fcfg := v &&& fcfgMask }
  | .pstat _ => s
  | .fexp _ => s
  | .coef k i => s.writeCtx k { s.readCtx k with coef := (s.readCtx k).coef.set i.val (lowByte v) }
  | .rawt k i => s.writeCtx k { s.readCtx k with rawt := (s.readCtx k).rawt.set i.val (lowByte v) }
  | .rawp k i => s.writeCtx k { s.readCtx k with rawp := (s.readCtx k).rawp.set i.val (lowByte v) }
  | .craw _ _ => s

/-- `MemWrite(r, 4, v)` for `r` other than `CMD`: an unmapped number is ignored (R52, R234). -/
def State.portWrite (s : State) (r : Nat) (v : Word) : State :=
  match portMap r with
  | some reg => s.storeReg reg v
  | none => s

/-- What the block accepts next (R16, R61). -/
inductive Accepted where
  /-- the host has nothing to say -/
  | idle
  /-- a write of a command word to `CMD` -/
  | command (w : Word) (rest : State)
  /-- a write of another port register -/
  | store (r : Nat) (v : Word) (rest : State)
  /-- a read of a port register -/
  | load (r : Nat) (rest : State)
  /-- the reset input (R250) -/
  | reset (rest : State)
deriving DecidableEq, Repr

/-- The oldest pending event and the state in which it takes effect (R61, log entry 1). A write of number 0, `CMD`,
is a command (R52). -/
def State.accept (s : State) : Accepted :=
  match s.pending with
  | [] => .idle
  | .write r v :: rest =>
    if portMap r = some .cmd then .command v { s with pending := rest }
    else .store r v { s with pending := rest }
  | .read r :: rest => .load r { s with pending := rest }
  | .reset :: rest => .reset { s with pending := rest }

/-- The state after the reset input: every register, flag and field at R43's value (R250); the parameters are fixed
and the host's later events are still to come (log entry 6). -/
def State.afterReset (s : State) : State :=
  { State.reset with params := s.params, pending := s.pending }

/-- The host's queue with a command word at its head (R50: `issue(w)` is a write to `CMD`). -/
def State.withCommand (s : State) (w : Word) : State :=
  { s with pending := .write PortReg.cmd.number w :: s.pending }

end Sys2Proof.Machine
end

