-- ==== Sys2Proof/Machine/Step.lean ====
section
/-! DEFINITION. One step of the block: one host transaction, or the reset input, or nothing to do (R16, R17, R261). -/

namespace Sys2Proof.Machine

/-- `issue(w)`: the word executes as a command, or is illegal and raises `IllegalCommand` (R50, R70, R76). -/
def issue (w : Word) (s : State) : Host.Outcome State Fault Refusal :=
  match decode w with
  | .ok i => exec i s
  | .error _ => .next (s.raise .illegalCommand w)

/-- One step: the oldest pending event takes effect, complete before the next (R61). With nothing pending the block is
idle and unchanged (R50, log entry 1). -/
def step (s : State) : Host.Outcome State Fault Refusal :=
  match s.accept with
  | .idle => .next s
  | .command w rest => issue w rest
  | .store r v rest => .next ((rest.portWrite r v).respond .ok)
  | .load r rest => .next (rest.respond (.value (rest.portRead r)))
  | .reset rest => .next rest.afterReset

/-- `s` with the command word `w` as the host's next transaction. -/
def State.withFetchWord (s : State) (nbits w : Nat) : State :=
  s.withCommand (BitVec.ofNat 32 (w % 2 ^ nbits))

end Sys2Proof.Machine
end

