-- ==== Sys2Proof/Machine/Assembler.lean ====
section
/-! DEFINITION. The assembler syntax (R78) and the pseudo-commands (R79). No step of the block uses them. -/

namespace Sys2Proof.Machine

/-- `SAMPLE k` (R79). -/
def expandSample (k : CtxId) : List Instr := [.comp k, .pfeed k]

/-- `XLI32 xd, v`: `XLI xd, v[15:0]` then `XLIH xd, v[31:16]`; the second command is always given, which R79
leaves free (DESIGN CHOICE, log entry 13). -/
def expandXli32 (xd : XReg) (v : Word) : List Instr :=
  [.xli xd (v.extractLsb' 0 16), .xlih xd (v.extractLsb' 16 16)]

/-- `LDBS k, idx, b0, ..., bn`: one LDB per byte at rising indices (R79). DESIGN CHOICE: no byte gives no command, where
R79 does not say whether the list may be empty (log entry 13). -/
def expandLdbs (k : CtxId) (idx : Nat) : List Byte → List Instr
  | [] => []
  | b :: bs => .ldb k (BitVec.ofNat 8 idx) b :: expandLdbs k (idx + 1) bs

/-- An operand as written (R78). -/
inductive Operand where
  | f (i : FReg)
  | x (i : XReg)
  | k (i : CtxId)
  | u (i : UnitId)
  | index (i : BitVec 4)
  | channel (c : Channel)
  | selector (s : FilterSel)
  | number (v : Int)
deriving DecidableEq, Repr

/-- The names of CEXT and CGET indices in order (R78). -/
def indexNames : List String :=
  ["c0", "c1", "c00", "c10", "c01", "c11", "c20", "c21", "c30", "kt", "kp", "tcomp", "pcomp"]

/-- An operand written out; numbers are written in decimal (R78). -/
def Operand.text : Operand → String
  | .f i => "f" ++ toString i.val
  | .x i => "x" ++ toString i.val
  | .k i => "k" ++ toString i.val
  | .u i => "u" ++ toString i.val
  | .index i => indexNames.getD i.toNat (toString i.toNat)
  | .channel .temperature => "t"
  | .channel .pressure => "p"
  | .selector .shallow => "shal"
  | .selector .deep => "deep"
  | .number v => toString v

/-- The mnemonic and the operands of a command, in the order `d`, `a`, `b`, immediate (R78). -/
def instrParts : Instr → String × List Operand
  | .nop => ("NOP", [])
  | .fclr => ("FCLR", [])
  | .xli xd imm => ("XLI", [.x xd, .number imm.toInt])
  | .xlih xd imm => ("XLIH", [.x xd, .number imm.toNat])
  | .ldb k idx byte => ("LDB", [.k k, .number idx.toNat, .number byte.toNat])
  | .fadd fd fa fb => ("FADD", [.f fd, .f fa, .f fb])
  | .fsub fd fa fb => ("FSUB", [.f fd, .f fa, .f fb])
  | .fmul fd fa fb => ("FMUL", [.f fd, .f fa, .f fb])
  | .fdiv fd fa fb => ("FDIV", [.f fd, .f fa, .f fb])
  | .fmuli fd fa xb => ("FMULI", [.f fd, .f fa, .x xb])
  | .ffrom fd xa xb => ("FFROM", [.f fd, .x xa, .x xb])
  | .fmov fd fa => ("FMOV", [.f fd, .f fa])
  | .fmant xd fa => ("FMANT", [.x xd, .f fa])
  | .fexp xd fa => ("FEXP", [.x xd, .f fa])
  | .fsign xd fa => ("FSIGN", [.x xd, .f fa])
  | .msb xd xa => ("MSB", [.x xd, .x xa])
  | .lsb xd xa => ("LSB", [.x xd, .x xa])
  | .iirnew u xa dp => ("IIRNEW", [.u u, .x xa, .number dp.toNat])
  | .iirpush u xa => ("IIRPUSH", [.u u, .x xa])
  | .iiravg xd u => ("IIRAVG", [.x xd, .u u])
  | .firnew u xa dp => ("FIRNEW", [.u u, .x xa, .number dp.toNat])
  | .firpush u xa => ("FIRPUSH", [.u u, .x xa])
  | .firavg xd u => ("FIRAVG", [.x xd, .u u])
  | .cext xd k i => ("CEXT", [.x xd, .k k, .index i])
  | .ksel k => ("KSEL", [.k k])
  | .kset k fa ch => ("KSET", [.k k, .f fa, .channel ch])
  | .cinit k => ("CINIT", [.k k])
  | .cget fd k i => ("CGET", [.f fd, .k k, .index i])
  | .adcext xd k ch => ("ADCEXT", [.x xd, .k k, .channel ch])
  | .comp k => ("COMP", [.k k])
  | .pfeed k => ("PFEED", [.k k])
  | .pshal fd k => ("PSHAL", [.f fd, .k k])
  | .pdeep fd k => ("PDEEP", [.f fd, .k k])
  | .psnap xd k sel => ("PSNAP", [.x xd, .k k, .selector sel])
  | .adiff fd kt ks => ("ADIFF", [.f fd, .k kt, .k ks])
  | .preset k => ("PRESET", [.k k])

/-- A command written out in the syntax of R78. -/
def instrText (i : Instr) : String :=
  match (instrParts i).2 with
  | [] => (instrParts i).1
  | ops => (instrParts i).1 ++ " " ++ ", ".intercalate (ops.map Operand.text)

/-- A digit's value in a base. DESIGN CHOICE: hexadecimal letters in either case (log entry 13). -/
def digitValue (base : Nat) (c : Char) : Option Nat :=
  let v :=
    if '0' ≤ c ∧ c ≤ '9' then c.toNat - '0'.toNat
    else if 'a' ≤ c ∧ c ≤ 'f' then c.toNat - 'a'.toNat + 10
    else if 'A' ≤ c ∧ c ≤ 'F' then c.toNat - 'A'.toNat + 10
    else 16
  if v < base then some v else none

/-- Digits read in a base, most significant first. -/
def readDigits (base : Nat) : Nat → List Char → Option Nat
  | acc, [] => some acc
  | acc, c :: cs => do readDigits base (acc * base + (← digitValue base c)) cs

/-- An unsigned number: decimal, or `0x` hexadecimal (R78). DESIGN CHOICE: leading zeros are accepted, `007` as 7, where R78 is
silent (log entry 13). -/
def readNat : List Char → Option Nat
  | [] => none
  | '0' :: 'x' :: c :: cs => readDigits 16 0 (c :: cs)
  | c :: cs => readDigits 10 0 (c :: cs)

/-- A number; a leading minus is read here and its place is decided by the immediate's range (R78). DESIGN CHOICE: the
minus may stand before a hexadecimal number too (log entry 13). -/
def readInt : List Char → Option Int
  | '-' :: cs => (readNat cs).map fun v => -(v : Int)
  | cs => (readNat cs).map fun v => (v : Int)

/-- A register, context or unit by its letter and decimal number (R78). DESIGN CHOICE: leading zeros are accepted, `f007` as
`f7`, where R78 lists `f0`..`f15` and is silent on them (log entry 13). -/
def readIndexed : List Char → Option Operand
  | 'f' :: c :: cs => do return .f (← fIndex (← readDigits 10 0 (c :: cs)))
  | 'x' :: c :: cs => do return .x (← xIndex (← readDigits 10 0 (c :: cs)))
  | 'k' :: c :: cs => do return .k (← pairIndex (← readDigits 10 0 (c :: cs)))
  | 'u' :: c :: cs => do return .u (← pairIndex (← readDigits 10 0 (c :: cs)))
  | _ => none

/-- A coefficient or CGET index by name (R78). -/
def readIndexName (cs : List Char) : Option Operand :=
  (indexNames.findIdx? fun n => n.toList == cs).map fun i => .index (BitVec.ofNat 4 i)

/-- An operand (R78). -/
def readOperand (cs : List Char) : Option Operand :=
  if cs == ['t'] then some (.channel .temperature)
  else if cs == ['p'] then some (.channel .pressure)
  else if cs == "shal".toList then some (.selector .shallow)
  else if cs == "deep".toList then some (.selector .deep)
  else (readIndexName cs).orElse fun _ => (readIndexed cs).orElse fun _ => (readInt cs).map .number

/-- Text cut at every comma. -/
def splitCommas : List Char → List Char → List (List Char)
  | acc, [] => [acc.reverse]
  | acc, c :: cs => if c == ',' then acc.reverse :: splitCommas [] cs else splitCommas (c :: acc) cs

/-- Text without blanks at either end. -/
def trimBlanks (cs : List Char) : List Char :=
  ((cs.dropWhile (· == ' ')).reverse.dropWhile (· == ' ')).reverse

/-- A line without its comment, cut into the mnemonic and the operands (R78). DESIGN CHOICE: spaces may stand around each
part; a tab is no space (log entry 13). -/
def splitLine (cs : List Char) : List Char × List (List Char) :=
  let line := trimBlanks (cs.takeWhile (· != ';'))
  let rest := trimBlanks (line.dropWhile (· != ' '))
  (line.takeWhile (· != ' '), if rest.isEmpty then [] else (splitCommas [] rest).map trimBlanks)

/-- An unsigned immediate of `n` bits. DESIGN CHOICE: `-0` is accepted as 0, where R78 allows a minus for XLI and is silent
on it elsewhere; every other negative number is out of range (log entry 13). -/
def immediate (n : Nat) (v : Int) : Option (BitVec n) :=
  if 0 ≤ v ∧ v < (2 ^ n : Nat) then some (BitVec.ofInt n v) else none

/-- The immediate of XLI: a 16-bit pattern, or a negative number down to `-2^15` (R78); the range is a DESIGN CHOICE
(log entry 13). -/
def signedImmediate (v : Int) : Option (BitVec 16) :=
  if -32768 ≤ v ∧ v < 65536 then some (BitVec.ofInt 16 v) else none

/-- A byte operand of LDBS. -/
def readByteOperand : Operand → Option Byte
  | .number v => immediate 8 v
  | _ => none

/-- The commands that a mnemonic and its operands stand for: one, or the expansion of a pseudo-command (R78, R79). DESIGN
CHOICE: LDBS with no byte operand is accepted and gives no command, its index being any number 0..255 (log entry 13). -/
def build (mnemonic : String) (ops : List Operand) : Option (List Instr) :=
  match mnemonic, ops with
  | "NOP", [] => some [.nop]
  | "FCLR", [] => some [.fclr]
  | "XLI", [.x d, .number v] => (signedImmediate v).map fun imm => [.xli d imm]
  | "XLIH", [.x d, .number v] => (immediate 16 v).map fun imm => [.xlih d imm]
  | "LDB", [.k d, .number i, .number v] => do return [.ldb d (← immediate 8 i) (← immediate 8 v)]
  | "FADD", [.f d, .f a, .f b] => some [.fadd d a b]
  | "FSUB", [.f d, .f a, .f b] => some [.fsub d a b]
  | "FMUL", [.f d, .f a, .f b] => some [.fmul d a b]
  | "FDIV", [.f d, .f a, .f b] => some [.fdiv d a b]
  | "FMULI", [.f d, .f a, .x b] => some [.fmuli d a b]
  | "FFROM", [.f d, .x a, .x b] => some [.ffrom d a b]
  | "FMOV", [.f d, .f a] => some [.fmov d a]
  | "FMANT", [.x d, .f a] => some [.fmant d a]
  | "FEXP", [.x d, .f a] => some [.fexp d a]
  | "FSIGN", [.x d, .f a] => some [.fsign d a]
  | "MSB", [.x d, .x a] => some [.msb d a]
  | "LSB", [.x d, .x a] => some [.lsb d a]
  | "IIRNEW", [.u d, .x a, .number v] => (immediate 12 v).map fun dp => [.iirnew d a dp]
  | "IIRPUSH", [.u d, .x a] => some [.iirpush d a]
  | "IIRAVG", [.x d, .u a] => some [.iiravg d a]
  | "FIRNEW", [.u d, .x a, .number v] => (immediate 12 v).map fun dp => [.firnew d a dp]
  | "FIRPUSH", [.u d, .x a] => some [.firpush d a]
  | "FIRAVG", [.x d, .u a] => some [.firavg d a]
  | "CEXT", [.x d, .k a, .index b] => some [.cext d a b]
  | "KSEL", [.k d] => some [.ksel d]
  | "KSET", [.k d, .f a, .channel b] => some [.kset d a b]
  | "CINIT", [.k d] => some [.cinit d]
  | "CGET", [.f d, .k a, .index b] => some [.cget d a b]
  | "ADCEXT", [.x d, .k a, .channel b] => some [.adcext d a b]
  | "COMP", [.k d] => some [.comp d]
  | "PFEED", [.k d] => some [.pfeed d]
  | "PSHAL", [.f d, .k a] => some [.pshal d a]
  | "PDEEP", [.f d, .k a] => some [.pdeep d a]
  | "PSNAP", [.x d, .k a, .selector b] => some [.psnap d a b]
  | "ADIFF", [.f d, .k a, .k b] => some [.adiff d a b]
  | "PRESET", [.k d] => some [.preset d]
  | "SAMPLE", [.k d] => some (expandSample d)
  | "XLI32", [.x d, .number v] =>
    if -2147483648 ≤ v ∧ v < 4294967296 then some (expandXli32 d (BitVec.ofInt 32 v)) else none
  | "LDBS", .k d :: .number i :: bytes => do return expandLdbs d (← immediate 8 i).toNat (← bytes.mapM readByteOperand)
  | _, _ => none

/-- One line of assembly: the commands it stands for, `none` where the syntax or an operand's range is wrong (R78,
R79). DESIGN CHOICE: a line that holds no command (blank, or a comment alone) gives `none` too, where R78 does not say
whether it is legal (log entry 13). -/
def assemble (line : String) : Option (List Instr) := do
  let (mnemonic, texts) := splitLine line.toList
  let cmds ← build (String.ofList mnemonic) (← texts.mapM readOperand)
  if cmds.all Instr.wellFormed then return cmds else none

end Sys2Proof.Machine
end

