-- ==== Sys2Proof/Machine/HostFloat.lean ====
section
/-! DEFINITION. The host float boundary (R8, R220 to R223): the reference `from_float` and `to_float` between binary32
patterns and SoftFloats. They run on the host; no step of the block calls them. -/

namespace Sys2Proof.Machine

/-- The biased exponent field of a binary32, bits 30:23 (R221). -/
def f32Exponent (x : Word) : Nat := x.toNat / 2 ^ 23 % 2 ^ 8

/-- The fraction field of a binary32, bits 22:0 (R221). -/
def f32Fraction (x : Word) : Nat := x.toNat % 2 ^ 23

/-- The sign of a binary32, bit 31 (R221). -/
def f32Sign (x : Word) : Int := if x.toNat / 2 ^ 31 = 0 then 1 else -1

/-- A finite binary32: neither NaN nor an infinity (R221). -/
def f32Finite (x : Word) : Bool := decide (f32Exponent x < 255)

/-- The integer significand `sig` of a finite binary32 (R221). -/
def f32Significand (x : Word) : Nat :=
  if f32Exponent x = 0 then f32Fraction x else 2 ^ 23 + f32Fraction x

/-- The exponent `q` of a finite binary32 `s * sig * 2^q` (R221). -/
def f32Scale (x : Word) : Int := if f32Exponent x = 0 then -149 else (f32Exponent x : Int) - 150

/-- Reference `from_float`: `normalize(s * sig, q)` for a finite binary32; NaN and the infinities have no SoftFloat
(R221). -/
def fromFloat (x : Word) : Option SoftFloat :=
  if f32Finite x then (normalize (f32Sign x * (f32Significand x : Int)) (f32Scale x)).toOption else none

/-- A magnitude scaled down by `2^shift` to an integer under a rounding (R222). -/
def roundDown (mode : F32Round) (mag shift : Nat) : Nat :=
  let whole := mag / 2 ^ shift
  let rest := mag % 2 ^ shift
  match mode with
  | .towardZero => whole
  | .nearestEven =>
    if 2 ^ shift < 2 * rest ∨ (2 * rest = 2 ^ shift ∧ whole % 2 = 1) then whole + 1 else whole

/-- The pattern of the result that overflows binary32: infinity, or the largest finite number (R222). -/
def f32Overflow : F32Round → Nat
  | .nearestEven => 0x7F800000
  | .towardZero => 0x7F7FFFFF

/-- The binary32 pattern, sign apart, of `mag * 2^e` for `mag > 0`. With `top` the exponent of the leading bit, the
result counts units of `2^(max(top, -126) - 23)`; a carry out of the fraction moves into the exponent field (R222). A
shift past 64 drops every bit of a 32-bit magnitude, so it is cut there. -/
def f32Magnitude (mode : F32Round) (mag : Nat) (e : Int) : Nat :=
  let top := e + (msbIndex mag : Int)
  if 127 < top then f32Overflow mode
  else
    let unit := max top (-126) - 23
    let units :=
      if unit ≤ e then mag * 2 ^ (e - unit).toNat else roundDown mode mag (min (unit - e).toNat 64)
    let pattern := (max top (-126) + 126).toNat * 2 ^ 23 + units
    if pattern < 0x7F800000 then pattern else f32Overflow mode

/-- Reference `to_float`: the binary32 nearest `m * 2^e` under the rounding; `ZERO` gives `+0.0` (R222). A negative
value that rounds to zero keeps its sign bit (log entry 4). -/
def toFloat (mode : F32Round) (a : SoftFloat) : Word :=
  let m := a.mant.toInt
  if m = 0 then 0
  else BitVec.ofNat 32 ((if m < 0 then 2 ^ 31 else 0) + f32Magnitude mode m.natAbs a.exp.toInt)

end Sys2Proof.Machine
end

