-- ==== Sys2Proof/Safety.lean ====
section
/-! DEFINITION. The terms that claims are stated in: exact values of SoftFloats, truncation, the filter invariants, the
invariant of the whole state, the fault record, and runs of steps. -/

namespace Sys2Proof.Machine

/-- The exact rational value `mant * 2^exp` (R14, R20). -/
def SoftFloat.val (a : SoftFloat) : ℚ := (a.mant.toInt : ℚ) * 2 ^ a.exp.toInt

/-- A normalized SoftFloat: `ZERO`, or a magnitude with its top bit at bit 30 (R21). -/
abbrev SoftFloat.Normalized (a : SoftFloat) : Prop :=
  a = SoftFloat.zero ∨ (2 ^ 30 ≤ a.mant.toInt.natAbs ∧ a.mant.toInt.natAbs ≤ 2 ^ 31 - 1)

/-- The negation of a SoftFloat. -/
def SoftFloat.neg (a : SoftFloat) : SoftFloat := { mant := int32 (-a.mant.toInt), exp := a.exp }

/-- `q` is `trunc31 y`: the 31 leading significant bits of the exact rational `y`, the rest dropped toward zero (R102,
R123). For each `y` at most one `q` is. -/
def IsTrunc31 (q : SoftFloat) (y : ℚ) : Prop :=
  q.Normalized ∧ (y = 0 → q = SoftFloat.zero) ∧
    (y ≠ 0 → q.mant ≠ 0 ∧ 0 < q.val * y ∧ |q.val| ≤ |y| ∧ |y| < |q.val| + 2 ^ q.exp.toInt)

/-- The exponent stays so far inside `int32` that no operation on two such operands can raise `ExponentRange`. -/
abbrev SoftFloat.InnerExponent (a : SoftFloat) : Prop := -(2 ^ 29) ≤ a.exp.toInt ∧ a.exp.toInt ≤ 2 ^ 29

/-- The SoftFloat invariant and an inner exponent. -/
abbrev SoftFloat.Tame (a : SoftFloat) : Prop := a.Normalized ∧ a.InnerExponent

/-- The IIR invariant: the average is the running sum shifted by the depth power (R32). -/
abbrev Iir.Consistent (u : Iir) : Prop := u.avg.toInt = asr u.sum.toInt u.dp.val

/-- The sum of the slots in use (R31). -/
def Fir.windowSum (u : Fir) : Int := ((u.buf.toList.take (2 ^ u.dp.val)).map BitVec.toInt).sum

/-- The FIR invariant: the running sum is the sum of the slots in use, the average is that sum shifted by the depth power,
and the cursor is in the window (R31, R32). -/
abbrev Fir.Consistent (u : Fir) : Prop :=
  u.sum.toInt = u.windowSum ∧ u.avg.toInt = asr u.sum.toInt u.dp.val ∧ u.cur.val < 2 ^ u.dp.val

/-- Every SoftFloat place of a context is normalized (R21). -/
abbrev Context.PlacesNormalized (c : Context) : Prop :=
  c.kt.Normalized ∧ c.kp.Normalized ∧ c.tcomp.Normalized ∧ c.pcomp.Normalized ∧
    ∀ i : Fin 9, c.c[i.val].Normalized

/-- The pipeline of a context: unprimed, it is as after reset; primed, both filters are valid and consistent (R32, R53,
R200). -/
abbrev Context.PipelineConsistent (c : Context) : Prop :=
  (c.primed = false → c.fexp = 0 ∧ c.shal = Fir.reset ∧ c.deep = Fir.reset) ∧
    (c.primed = true → (c.shal.valid = true ∧ c.shal.Consistent) ∧ c.deep.valid = true ∧ c.deep.Consistent)

/-- The reserved bits of the control words read 0 (R34, R35). -/
abbrev Context.ReservedZero (c : Context) : Prop :=
  c.mcfg &&& ~~~mcfgMask = 0 ∧ c.fcfg &&& ~~~fcfgMask = 0

/-- What holds of a context in every state the block can be in. A pressure exists only if the context was calibrated, and
a pipeline is primed only by a pressure (R36, R182, R192). -/
abbrev Context.Inv (c : Context) : Prop :=
  c.PlacesNormalized ∧ c.PipelineConsistent ∧ c.ReservedZero ∧
    (c.compvalid = true → c.calibrated = true) ∧ (c.primed = true → c.compvalid = true)

/-- The fault record in its legal form: reserved bits of `STATUS` are 0, `FCAUSE` is 0 or a cause's code (R26, R27). -/
abbrev State.RecordLegal (s : State) : Prop :=
  s.status &&& ~~~statusMask = 0 ∧ s.fcause.toNat ≤ 10

/-- The invariant of the block (R21, R26, R27, R32, R34, R35, R36, R53). -/
abbrev State.Inv (s : State) : Prop :=
  (∀ i : FReg, (s.readF i).Normalized) ∧ s.RecordLegal ∧ (∀ u : UnitId, (s.readIir u).Consistent) ∧
    (∀ u : UnitId, (s.readFir u).Consistent) ∧ ∀ k : CtxId, (s.readCtx k).Inv

/-- A safe run in the sense of R17 and R260: `n` steps from `s` all answer a next state, the last being `t`. -/
def runsTo : Nat → State → State → Prop
  | 0, s, t => s = t
  | n + 1, s, t => ∃ u, step s = .next u ∧ runsTo n u t

/-- The exact value that FADD truncates: a zero operand gives the other one; otherwise the operand of smaller exponent is
shifted right, toward zero, by the exponent difference or 31, and added at the larger exponent (R105, R106). -/
def alignedSum (a b : SoftFloat) : ℚ :=
  if a.mant = 0 then b.val
  else if b.mant = 0 then a.val
  else if b.exp.toInt ≤ a.exp.toInt then
    ((a.mant.toInt + b.mant.toInt.tdiv (2 ^ (min (a.exp.toInt - b.exp.toInt) 31).toNat) : Int) : ℚ) *
      2 ^ a.exp.toInt
  else
    ((a.mant.toInt.tdiv (2 ^ (min (b.exp.toInt - a.exp.toInt) 31).toNat) + b.mant.toInt : Int) : ℚ) *
      2 ^ b.exp.toInt

/-- `q` is `y` divided by each scale factor in turn, every division truncated on its own (R167). -/
def IsQuotientChain (q : SoftFloat) : ℚ → List SoftFloat → Prop
  | y, [] => IsTrunc31 q y
  | y, k :: ks => ∃ m, IsTrunc31 m (y / k.val) ∧ IsQuotientChain q m.val ks

/-- `n` is the nine decoded integers `r` scaled by their degrees: `c0`, `c00` unscaled, `c1`, `c01` by `kt`, `c10` by `kp`,
`c11` by both, `c20` twice and `c30` three times by `kp`, `c21` twice by `kp` and once by `kt` (R38, R167). -/
def IsScaledSet (n : Vector SoftFloat 9) (r : Vector Word 9) (kt kp : SoftFloat) : Prop :=
  IsQuotientChain n[0] r[0].toInt [] ∧ IsQuotientChain n[1] r[1].toInt [kt] ∧ IsQuotientChain n[2] r[2].toInt [] ∧
  IsQuotientChain n[3] r[3].toInt [kp] ∧ IsQuotientChain n[4] r[4].toInt [kt] ∧
  IsQuotientChain n[5] r[5].toInt [kp, kt] ∧ IsQuotientChain n[6] r[6].toInt [kp, kp] ∧
  IsQuotientChain n[7] r[7].toInt [kp, kp, kt] ∧ IsQuotientChain n[8] r[8].toInt [kp, kp, kp]

/-- `T` and `P` are the temperature and the pressure that R182's eleven operations give, in its order, on the scaled
coefficients `cs` and the raw counts, every operation truncated on its own. -/
def IsCompensation (cs : Vector SoftFloat 9) (rawt rawp : Int) (T P : SoftFloat) : Prop :=
  ∃ t p m₁ h₁ h₂ h₃ h₄ h₅ h₆ m₂ h₇ m₃ m₄ : SoftFloat,
    IsTrunc31 t rawt ∧ IsTrunc31 p rawp ∧
    IsTrunc31 m₁ (cs[1].val * t.val) ∧ IsTrunc31 T (alignedSum cs[0] m₁) ∧
    IsTrunc31 h₁ (cs[8].val * p.val) ∧ IsTrunc31 h₂ (alignedSum cs[6] h₁) ∧
    IsTrunc31 h₃ (h₂.val * p.val) ∧ IsTrunc31 h₄ (alignedSum cs[3] h₃) ∧
    IsTrunc31 h₅ (h₄.val * p.val) ∧ IsTrunc31 h₆ (alignedSum cs[2] h₅) ∧
    IsTrunc31 m₂ (cs[4].val * t.val) ∧ IsTrunc31 h₇ (alignedSum h₆ m₂) ∧
    IsTrunc31 m₃ (cs[5].val * p.val) ∧ IsTrunc31 m₄ (m₃.val * t.val) ∧ IsTrunc31 P (alignedSum h₇ m₄)

/-- `q` is the truncated difference of the exact deep values of two contexts, each `avg * 2^fexp` (R195, R199). -/
def IsPressureDifference (q : SoftFloat) (total static : Context) : Prop :=
  ∃ a b : SoftFloat, a.Normalized ∧ b.Normalized ∧
    a.val = (total.deep.avg.toInt : ℚ) * 2 ^ total.fexp.toInt ∧
    b.val = (static.deep.avg.toInt : ℚ) * 2 ^ static.fexp.toInt ∧ IsTrunc31 q (alignedSum a b.neg)

/-- `u` is a new IIR unit of depth power `dp` and initial value `v` (R143). -/
def Iir.IsNew (u : Iir) (dp : Nat) (v : Word) : Prop :=
  u.valid = true ∧ u.dp.val = dp ∧ u.avg = v ∧ u.sum.toInt = v.toInt * 2 ^ dp

/-- `u` is `old` after one push of `v`: the sum moves by the sample less the old average, the average is the floor of the
new sum over the window (R142, R143). -/
def Iir.IsPush (u old : Iir) (v : Word) : Prop :=
  u.valid = old.valid ∧ u.dp = old.dp ∧ u.sum.toInt = old.sum.toInt + v.toInt - old.avg.toInt ∧
    u.avg.toInt = u.sum.toInt / 2 ^ old.dp.val

/-- `u` is a new FIR unit of depth power `dp` and initial value `v`, made where `old` stood: the slots of the window hold
`v`, the others what they held (R148). -/
def Fir.IsNew (u old : Fir) (dp : Nat) (v : Word) : Prop :=
  u.valid = true ∧ u.dp.val = dp ∧ u.avg = v ∧ u.sum.toInt = v.toInt * 2 ^ dp ∧ u.cur.val = 0 ∧
    ∀ j : Fin 32, u.buf[j.val] = if j.val < 2 ^ dp then v else old.buf[j.val]

/-- `u` is `old` after one push of `v`: the slot at the cursor takes the sample, the cursor moves on in the window, the
sum moves by the sample less the evicted one, the average is the floor of the new sum over the window (R142, R148). -/
def Fir.IsPush (u old : Fir) (v : Word) : Prop :=
  u.valid = old.valid ∧ u.dp = old.dp ∧ u.cur.val = (old.cur.val + 1) % 2 ^ old.dp.val ∧
    (∀ j : Fin 32, u.buf[j.val] = if j = old.cur then v else old.buf[j.val]) ∧
    u.sum.toInt = old.sum.toInt + v.toInt - (old.buf[old.cur.val]).toInt ∧
    u.avg.toInt = u.sum.toInt / 2 ^ old.dp.val

/-- Two's complement: the signed integer that `w` bits of value `v` spell (R13). -/
def signedValue (v w : Nat) : Int := if v < 2 ^ (w - 1) then (v : Int) else (v : Int) - 2 ^ w

/-- The word of five fields (R75); a 16-bit immediate takes the place of `b` and `imm12`. -/
def commandWord (op d a b imm : Nat) : Word :=
  BitVec.ofNat 32 (op * 2 ^ 24 + d * 2 ^ 20 + a * 2 ^ 16 + b * 2 ^ 12 + imm)

/-- The context that a command may write, if any (R33, R65). -/
def writtenContext : Instr → Option CtxId
  | .ldb k _ _ => some k
  | .ksel k => some k
  | .kset k _ _ => some k
  | .cinit k => some k
  | .comp k => some k
  | .pfeed k => some k
  | .preset k => some k
  | .nop | .fclr | .xli _ _ | .xlih _ _ | .fadd _ _ _ | .fsub _ _ _ | .fmul _ _ _ | .fdiv _ _ _ | .fmuli _ _ _
  | .ffrom _ _ _ | .fmov _ _ | .fmant _ _ | .fexp _ _ | .fsign _ _ | .msb _ _ | .lsb _ _ | .iirnew _ _ _
  | .iirpush _ _ | .iiravg _ _ | .firnew _ _ _ | .firpush _ _ | .firavg _ _ | .cext _ _ _ | .cget _ _ _
  | .adcext _ _ _ | .pshal _ _ | .pdeep _ _ | .psnap _ _ _ | .adiff _ _ _ => none

/-- Pushing the same sample `n` times into an IIR unit. -/
def iirPushes : Nat → Iir → Word → Iir
  | 0, u, _ => u
  | n + 1, u, v => iirPush (iirPushes n u v) v

/-- Pushing the same sample `n` times into a FIR unit. -/
def firPushes : Nat → Fir → Word → Fir
  | 0, u, _ => u
  | n + 1, u, v => firPush (firPushes n u v) v

end Sys2Proof.Machine
end

