-- ==== Sys2Proof/Certificates/Slice0/Obligations.lean ====
section
/-! DEFINITION. The statements for the provers, rule by rule. -/

open Sys2Proof Sys2Proof.Machine

/-! ### Encoding (30_encoding.md) -/

/-- Decoding the encoding of a well-formed command gives the command back, for every operand value (R74, R75). -/
def Obligations.DecodeOfEncodeIsTheCommand : Prop :=
  ∀ i : Instr, i.wellFormed = true → decode (encode i) = .ok i

/-- A legal word is the encoding of the command it decodes to: no two words decode to one command (R75, R76). -/
def Obligations.EncodeOfDecodeIsTheWord : Prop :=
  ∀ (w : Word) (i : Instr), decode w = .ok i → encode i = w

/-- A word that passes a row's match, mask and max decodes to that row's command and no other word does; a word that
passes no row is illegal (R75). -/
def Obligations.LegalWordsAreTheTableRows : Prop :=
  ∀ w : Word,
    (∀ r ∈ opcodeTable,
      r.accepts w = true ↔ ∃ i, decode w = .ok i ∧ (instrParts i).1 = r.mnemonic) ∧
    ((∃ e, decode w = .error e) ↔ ∀ r ∈ opcodeTable, r.accepts w = false)

/-- The all-zero word is NOP and the all-ones word is illegal (R77); words of 95_test_vectors.md section 8, one a family,
and illegal neighbours of them. -/
def Obligations.SampleWordsDecode : Prop :=
  decode 0x00000000#32 = .ok .nop ∧
  decode 0x040017FF#32 = .ok (.ldb 0 23 0xFF) ∧ decode 0x02700001#32 = .ok (.xli 7 1) ∧
  decode 0x14FF7000#32 = .ok (.fmuli 15 15 7) ∧ decode 0x20170020#32 = .ok (.iirnew 1 7 32) ∧
  decode 0x30718000#32 = .ok (.cext 7 1 8) ∧ decode 0x38711000#32 = .ok (.adcext 7 1 .pressure) ∧
  decode 0x43611000#32 = .ok (.psnap 6 1 .deep) ∧ decode 0x44F11000#32 = .ok (.adiff 15 1 1) ∧
  decode 0xFFFFFFFF#32 = .error .opcode ∧ decode 0x20101000#32 = .error .unusedField ∧
  decode 0x04001800#32 = .error .operandRange ∧ decode 0x43711000#32 = .error .operandRange

/-! ### Steps, commands and faults (00_scope.md, 20_memory.md, 60_exceptions.md) -/

/-- A word at the head of the host's queue, written to `CMD`, that decodes to a command runs exactly that command, with
the word taken off the queue and nothing else added around it (R50, R61, R70). -/
def Obligations.StepRunsTheDecodedCommand : Prop :=
  ∀ (s : State) (w : Word) (rest : List Event) (i : Instr),
    s.pending = .write 0 w :: rest → decode w = .ok i → step s = exec i { s with pending := rest }

/-- Issuing the encoding of any command term runs that term; an ill-formed one raises `IllegalCommand` either way (R75,
R76, log entry 14). -/
def Obligations.IssuedEncodingRunsTheTerm : Prop :=
  (∀ (i : Instr) (s : State), issue (encode i) s = exec i s) ∧
  ∀ (i : Instr) (s : State), i.wellFormed = false → exec i s = .next (s.raise .illegalCommand (encode i))

/-- Every step of every state, and so every run of any length, ends in a next state: nothing stops the block (R17,
R260). With no transaction pending it stays as it is (the model's choice, log entry 1). -/
def Obligations.EveryRunGoesOn : Prop :=
  (∀ (n : Nat) (s : State), ∃ t, runsTo n s t) ∧ ∀ s : State, s.pending = [] → step s = .next s

/-- A faulting word leaves the state as it was but for the record: the sticky flag of its cause, the cause code, the word
itself and the saturating count (R231). -/
def Obligations.FaultsArePrecise : Prop :=
  ∀ (w : Word) (s t : State) (c : Cause), issue w s = .next t → t.response = some (.fault c) →
    t = { s with
          status := s.status ||| (1#32 <<< c.code)
          fcause := BitVec.ofNat 4 c.code
          fcmd := w
          errcnt := if s.errcnt = 0xFFFFFFFF#32 then s.errcnt else s.errcnt + 1
          response := some (.fault c) }

/-- An illegal word raises `IllegalCommand`, whatever the state, and changes nothing else (R76). -/
def Obligations.IllegalWordsRaiseIllegalCommand : Prop :=
  ∀ (w : Word) (s : State), (∀ r ∈ opcodeTable, r.accepts w = false) →
    issue w s = .next { s with
      status := s.status ||| 2#32
      fcause := 1
      fcmd := w
      errcnt := if s.errcnt = 0xFFFFFFFF#32 then s.errcnt else s.errcnt + 1
      response := some (.fault .illegalCommand) }

/-- `ERRCNT` is 0 after reset and moves by exactly the faults: one up, saturating, with every faulting command, and
unchanged by every other transaction but reset, FCLR and writes of `STATUS` included; the port reads it at `0x004` and
cannot write it (R29). -/
def Obligations.ErrcntCountsTheFaults : Prop :=
  State.reset.errcnt = 0 ∧
  (∀ (s : State) (v : Word), s.portRead 4 = s.errcnt ∧ s.portWrite 4 v = s) ∧
  ∀ s t : State, step s = .next t → (∀ rest, s.pending ≠ .reset :: rest) → s.pending ≠ [] →
    (∃ c, t.response = some (.fault c)) ∧ t.errcnt.toNat = min (s.errcnt.toNat + 1) (2 ^ 32 - 1) ∨
      (∀ c, t.response ≠ some (.fault c)) ∧ t.errcnt = s.errcnt

/-- A sticky flag is never cleared by the block: it stays through every step but FCLR, a write to `STATUS` and reset
(R26). -/
def Obligations.StickyFlagsStay : Prop :=
  ∀ s t : State, step s = .next t →
    (∀ rest, s.pending ≠ .reset :: rest) → (∀ v rest, s.pending ≠ .write 1 v :: rest) →
    (∀ rest, s.pending ≠ .write 0 (encode .fclr) :: rest) →
    ∀ n, s.status.getLsbD n = true → t.status.getLsbD n = true

/-- The progress flags: `CALIBRATED` and `COMPVALID` stay through every step but reset, and `PRIMED` through every step
but reset and a PRESET of that context (R36). -/
def Obligations.ProgressFlagsStay : Prop :=
  ∀ (s t : State) (k : CtxId), step s = .next t → (∀ rest, s.pending ≠ .reset :: rest) →
    ((s.readCtx k).calibrated = true → (t.readCtx k).calibrated = true) ∧
    ((s.readCtx k).compvalid = true → (t.readCtx k).compvalid = true) ∧
    ((∀ rest, s.pending ≠ .write 0 (encode (.preset k)) :: rest) →
      (s.readCtx k).primed = true → (t.readCtx k).primed = true)

/-- Once a context is calibrated its scale factors, raw and scaled coefficients are immutable until reset, whatever the
host does; KSEL, KSET and CINIT on it raise `ConfigLocked` (R39). -/
def Obligations.CalibrationIsImmutable : Prop :=
  (∀ (s t : State) (k : CtxId), step s = .next t → (∀ rest, s.pending ≠ .reset :: rest) →
    (s.readCtx k).calibrated = true →
    (t.readCtx k).kt = (s.readCtx k).kt ∧ (t.readCtx k).kp = (s.readCtx k).kp ∧
    (t.readCtx k).craw = (s.readCtx k).craw ∧ (t.readCtx k).c = (s.readCtx k).c) ∧
  ∀ (s : State) (k : CtxId) (fa : FReg) (ch : Channel), (s.readCtx k).calibrated = true →
    exec (.ksel k) s = .next (s.raise .configLocked (encode (.ksel k))) ∧
    exec (.kset k fa ch) s = .next (s.raise .configLocked (encode (.kset k fa ch))) ∧
    exec (.cinit k) s = .next (s.raise .configLocked (encode (.cinit k)))

/-- A command writes no context but the one it names, and of the commands only PFEED and PRESET write the pipeline
filters and the pipeline exponent (R33, R40). -/
def Obligations.ContextsAreIsolated : Prop :=
  ∀ (i : Instr) (s t : State) (k : CtxId), exec i s = .next t →
    (writtenContext i ≠ some k → t.readCtx k = s.readCtx k) ∧
    (i ≠ .pfeed k → i ≠ .preset k →
      (t.readCtx k).shal = (s.readCtx k).shal ∧ (t.readCtx k).deep = (s.readCtx k).deep ∧
      (t.readCtx k).fexp = (s.readCtx k).fexp)

/-! ### System commands (45_system.md) -/

/-- NOP answers `ok` and changes nothing; `0x00000000` is its only word, and any other word with `op = 0x00` raises
`IllegalCommand` (R210). -/
def Obligations.NopChangesNothing : Prop :=
  (∀ s : State, exec .nop s = .next { s with response := some .ok }) ∧
  (∀ w : Word, decode w = .ok .nop ↔ w = 0) ∧
  ∀ (w : Word) (s : State), w.toNat / 2 ^ 24 = 0 → w ≠ 0 → issue w s = .next (s.raise .illegalCommand w)

/-- FCLR clears `STATUS`, `FCAUSE` and `FCMD`, keeps `ERRCNT` and all else, and `0x01000000` is its only word (R211). -/
def Obligations.FclrClearsTheRecord : Prop :=
  (∀ s : State, exec .fclr s = .next { s with status := 0, fcause := 0, fcmd := 0, response := some .ok }) ∧
  ∀ w : Word, decode w = .ok .fclr ↔ w = 0x01000000#32

/-- XLI writes the sign-extended immediate; XLIH replaces bits 31:16 and keeps bits 15:0; the two build any 32-bit
pattern, `XLI32` of R79. Nothing else changes (R79, R212, R213). -/
def Obligations.ImmediatesBuildAnyWord : Prop :=
  (∀ (xd : XReg) (imm : BitVec 16), encode (.xli xd imm) = commandWord 0x02 xd 0 0 imm.toNat ∧
    encode (.xlih xd imm) = commandWord 0x03 xd 0 0 imm.toNat) ∧
  (∀ (xd : XReg) (imm : BitVec 16) (s : State), ∃ v : Word, v.toInt = imm.toInt ∧
    exec (.xli xd imm) s = .next { s with x := s.x.set xd.val v, response := some .ok }) ∧
  (∀ (xd : XReg) (imm : BitVec 16) (s : State), ∃ v : Word,
    v.extractLsb' 16 16 = imm ∧ v.extractLsb' 0 16 = (s.readX xd).extractLsb' 0 16 ∧
    exec (.xlih xd imm) s = .next { s with x := s.x.set xd.val v, response := some .ok }) ∧
  ∀ (xd : XReg) (v : Word) (s : State), ∃ lo hi u, expandXli32 xd v = [lo, hi] ∧
    exec lo s = .next u ∧ exec hi u = .next { s with x := s.x.set xd.val v, response := some .ok }

/-- LDB has exactly the effect of the host-port write to the byte register its index names; an index above 23 raises
`IllegalCommand` (R76, R214). -/
def Obligations.LdbIsThePortWriteOfTheByte : Prop :=
  ∀ (k : CtxId) (idx : BitVec 8) (b : Byte) (s : State),
    encode (.ldb k idx b) = commandWord 0x04 k 0 0 (idx.toNat * 256 + b.toNat) ∧
    (∀ r, (idx.toNat ≤ 17 ∧ r = 0x110 + 0x100 * k.val + idx.toNat ∨
        18 ≤ idx.toNat ∧ idx.toNat ≤ 20 ∧ r = 0x124 + 0x100 * k.val + (idx.toNat - 18) ∨
        21 ≤ idx.toNat ∧ idx.toNat ≤ 23 ∧ r = 0x128 + 0x100 * k.val + (idx.toNat - 21)) →
      exec (.ldb k idx b) s = .next { s.portWrite r (b.zeroExtend 32) with response := some .ok } ∧
      (s.portWrite r (b.zeroExtend 32)).portRead r = b.zeroExtend 32) ∧
    (23 < idx.toNat → exec (.ldb k idx b) s = .next (s.raise .illegalCommand (encode (.ldb k idx b))))

/-! ### The SoftFloat unit (40_softfloat.md) -/

/-- `normalize` returns the exact intermediate value truncated toward zero to 31 significant bits, and faults exactly when
no normalized SoftFloat is that truncation; scaling the intermediate by a power of two and compensating in the exponent
changes nothing (R101, R102, R103, R123 (1)). -/
def Obligations.NormalizeTruncatesTowardZero : Prop :=
  ∀ r e : Int,
    (∀ q, normalize r e = .ok q ↔ IsTrunc31 q ((r : ℚ) * 2 ^ e)) ∧
    (normalize r e = .error .exponentRange ↔ ¬∃ q, IsTrunc31 q ((r : ℚ) * 2 ^ e)) ∧
    ∀ j : Nat, normalize (r * 2 ^ j) (e - j) = normalize r e

/-- FADD writes the truncation of the aligned sum to its destination and nothing else, and raises `ExponentRange` with
nothing written where there is none; with exponents inside `2^29` it always completes (R105, R108, R110). -/
def Obligations.FaddWritesTheAlignedSum : Prop :=
  ∀ (fd fa fb : FReg) (s : State), (s.readF fa).Normalized → (s.readF fb).Normalized →
    encode (.fadd fd fa fb) = commandWord 0x10 fd fa fb 0 ∧
    (∀ q, IsTrunc31 q (alignedSum (s.readF fa) (s.readF fb)) →
      exec (.fadd fd fa fb) s = .next { s with f := s.f.set fd.val q, response := some .ok }) ∧
    ((¬∃ q, IsTrunc31 q (alignedSum (s.readF fa) (s.readF fb))) →
      exec (.fadd fd fa fb) s = .next (s.raise .exponentRange (encode (.fadd fd fa fb)))) ∧
    ((s.readF fa).InnerExponent → (s.readF fb).InnerExponent →
      ∃ q, IsTrunc31 q (alignedSum (s.readF fa) (s.readF fb)) ∧
        exec (.fadd fd fa fb) s = .next { s with f := s.f.set fd.val q, response := some .ok })

/-- FSUB writes the truncation of the sum with the negated second operand, and nothing else; faults and completion as
FADD (R105, R108, R111). -/
def Obligations.FsubWritesTheAlignedDifference : Prop :=
  ∀ (fd fa fb : FReg) (s : State), (s.readF fa).Normalized → (s.readF fb).Normalized →
    encode (.fsub fd fa fb) = commandWord 0x11 fd fa fb 0 ∧
    (∀ q, IsTrunc31 q (alignedSum (s.readF fa) (s.readF fb).neg) →
      exec (.fsub fd fa fb) s = .next { s with f := s.f.set fd.val q, response := some .ok }) ∧
    ((¬∃ q, IsTrunc31 q (alignedSum (s.readF fa) (s.readF fb).neg)) →
      exec (.fsub fd fa fb) s = .next (s.raise .exponentRange (encode (.fsub fd fa fb)))) ∧
    ((s.readF fa).InnerExponent → (s.readF fb).InnerExponent →
      ∃ q, IsTrunc31 q (alignedSum (s.readF fa) (s.readF fb).neg) ∧
        exec (.fsub fd fa fb) s = .next { s with f := s.f.set fd.val q, response := some .ok })

/-- The algebra of addition: it commutes, `a + 0 = a` and `a - 0 = a`, `0 - b` is the exact negation, `a - a` is `ZERO`,
subtraction is addition of the negation, and an operand smaller by 31 or more binary orders does not count (R106, R107,
R110, R111). -/
def Obligations.AdditionLaws : Prop :=
  ∀ a b : SoftFloat, a.Normalized → b.Normalized →
    fAdd a b = fAdd b a ∧ fAdd a SoftFloat.zero = .ok a ∧ fAdd SoftFloat.zero b = .ok b ∧
    fSub a SoftFloat.zero = .ok a ∧
    fSub SoftFloat.zero b = .ok b.neg ∧ b.neg.val = -b.val ∧ fSub a a = .ok SoftFloat.zero ∧
    fSub a b = fAdd a b.neg ∧
    (a.mant ≠ 0 → b.exp.toInt + 31 ≤ a.exp.toInt → fAdd a b = .ok a)

/-- FMUL writes `trunc31(val a * val b)` to its destination and nothing else; it raises `ExponentRange` where there is
none, and with exponents inside `2^29` it always completes (R108, R112, R123 (2)). -/
def Obligations.FmulWritesTheTruncatedProduct : Prop :=
  ∀ (fd fa fb : FReg) (s : State), (s.readF fa).Normalized → (s.readF fb).Normalized →
    encode (.fmul fd fa fb) = commandWord 0x12 fd fa fb 0 ∧
    (∀ q, IsTrunc31 q ((s.readF fa).val * (s.readF fb).val) →
      exec (.fmul fd fa fb) s = .next { s with f := s.f.set fd.val q, response := some .ok }) ∧
    ((¬∃ q, IsTrunc31 q ((s.readF fa).val * (s.readF fb).val)) →
      exec (.fmul fd fa fb) s = .next (s.raise .exponentRange (encode (.fmul fd fa fb)))) ∧
    ((s.readF fa).InnerExponent → (s.readF fb).InnerExponent →
      ∃ q, IsTrunc31 q ((s.readF fa).val * (s.readF fb).val) ∧
        exec (.fmul fd fa fb) s = .next { s with f := s.f.set fd.val q, response := some .ok })

/-- FDIV by `ZERO` raises `DivisionByZero`, a `ZERO` dividend included; otherwise it writes `trunc31(val a / val b)` and
nothing else, raises `ExponentRange` where there is none, and with exponents inside `2^29` always completes (R108,
R113, R123 (2)). -/
def Obligations.FdivWritesTheTruncatedQuotient : Prop :=
  ∀ (fd fa fb : FReg) (s : State), (s.readF fa).Normalized → (s.readF fb).Normalized →
    encode (.fdiv fd fa fb) = commandWord 0x13 fd fa fb 0 ∧
    ((s.readF fb).mant = 0 →
      exec (.fdiv fd fa fb) s = .next (s.raise .divisionByZero (encode (.fdiv fd fa fb)))) ∧
    ((s.readF fb).mant ≠ 0 →
      (∀ q, IsTrunc31 q ((s.readF fa).val / (s.readF fb).val) →
        exec (.fdiv fd fa fb) s = .next { s with f := s.f.set fd.val q, response := some .ok }) ∧
      ((¬∃ q, IsTrunc31 q ((s.readF fa).val / (s.readF fb).val)) →
        exec (.fdiv fd fa fb) s = .next (s.raise .exponentRange (encode (.fdiv fd fa fb)))) ∧
      ((s.readF fa).InnerExponent → (s.readF fb).InnerExponent →
        ∃ q, IsTrunc31 q ((s.readF fa).val / (s.readF fb).val) ∧
          exec (.fdiv fd fa fb) s = .next { s with f := s.f.set fd.val q, response := some .ok }))

/-- FMULI writes `trunc31(val a * n)` and nothing else, raises `ExponentRange` where there is none, completes with an
exponent inside `2^29`, and equals FMUL with FFROM of the integer (R114, R123 (3)). -/
def Obligations.FmuliWritesTheTruncatedProduct : Prop :=
  (∀ (fd fa : FReg) (xb : XReg) (s : State), (s.readF fa).Normalized →
    encode (.fmuli fd fa xb) = commandWord 0x14 fd fa xb 0 ∧
    (∀ q, IsTrunc31 q ((s.readF fa).val * (s.readX xb).toInt) →
      exec (.fmuli fd fa xb) s = .next { s with f := s.f.set fd.val q, response := some .ok }) ∧
    ((¬∃ q, IsTrunc31 q ((s.readF fa).val * (s.readX xb).toInt)) →
      exec (.fmuli fd fa xb) s = .next (s.raise .exponentRange (encode (.fmuli fd fa xb)))) ∧
    ((s.readF fa).InnerExponent →
      ∃ q, IsTrunc31 q ((s.readF fa).val * (s.readX xb).toInt) ∧
        exec (.fmuli fd fa xb) s = .next { s with f := s.f.set fd.val q, response := some .ok })) ∧
  ∀ (a : SoftFloat) (n : Word), a.Normalized →
    ∃ b, normalize n.toInt 0 = .ok b ∧ b.val = n.toInt ∧ fMulInt a n.toInt = fMul a b

/-- FFROM converts exactly: it writes the normalized SoftFloat whose value is `x[xa] * 2^x[xb]`, and nothing else; it
raises `ExponentRange` where there is none; and it completes for every exponent from `-2^31 + 30` to `2^31 - 2`
(R115). -/
def Obligations.FfromConvertsExactly : Prop :=
  ∀ (fd : FReg) (xa xb : XReg) (s : State),
    encode (.ffrom fd xa xb) = commandWord 0x15 fd xa xb 0 ∧
    (∀ q : SoftFloat, q.Normalized → q.val = ((s.readX xa).toInt : ℚ) * 2 ^ (s.readX xb).toInt →
      exec (.ffrom fd xa xb) s = .next { s with f := s.f.set fd.val q, response := some .ok }) ∧
    ((¬∃ q : SoftFloat, q.Normalized ∧ q.val = ((s.readX xa).toInt : ℚ) * 2 ^ (s.readX xb).toInt) →
      exec (.ffrom fd xa xb) s = .next (s.raise .exponentRange (encode (.ffrom fd xa xb)))) ∧
    (-2147483618 ≤ (s.readX xb).toInt → (s.readX xb).toInt ≤ 2147483646 →
      ∃ q : SoftFloat, q.Normalized ∧ q.val = ((s.readX xa).toInt : ℚ) * 2 ^ (s.readX xb).toInt ∧
        exec (.ffrom fd xa xb) s = .next { s with f := s.f.set fd.val q, response := some .ok })

/-- FMOV copies both fields, FMANT and FEXP copy one to an integer register, FSIGN writes `-1` for a negative mantissa and
`+1` otherwise; each changes its destination alone. FMANT and FEXP into two registers and FFROM on them reproduce a
normalized SoftFloat (R115 to R119). -/
def Obligations.MovesCopyTheFields : Prop :=
  (∀ (fd fa : FReg) (xd : XReg), encode (.fmov fd fa) = commandWord 0x16 fd fa 0 0 ∧
    encode (.fmant xd fa) = commandWord 0x18 xd fa 0 0 ∧ encode (.fexp xd fa) = commandWord 0x19 xd fa 0 0 ∧
    encode (.fsign xd fa) = commandWord 0x1A xd fa 0 0) ∧
  (∀ (fd fa : FReg) (s : State),
    exec (.fmov fd fa) s = .next { s with f := s.f.set fd.val (s.readF fa), response := some .ok }) ∧
  (∀ (xd : XReg) (fa : FReg) (s : State),
    exec (.fmant xd fa) s = .next { s with x := s.x.set xd.val (s.readF fa).mant, response := some .ok }) ∧
  (∀ (xd : XReg) (fa : FReg) (s : State),
    exec (.fexp xd fa) s = .next { s with x := s.x.set xd.val (s.readF fa).exp, response := some .ok }) ∧
  (∀ (xd : XReg) (fa : FReg) (s : State),
    exec (.fsign xd fa) s = .next { s with
      x := s.x.set xd.val (if (s.readF fa).mant.toInt < 0 then 0xFFFFFFFF#32 else 1#32), response := some .ok }) ∧
  ∀ (xa xb : XReg) (fd fa : FReg) (s : State), xa ≠ xb → (s.readF fa).Normalized →
    ∃ u v t, exec (.fmant xa fa) s = .next u ∧ exec (.fexp xb fa) u = .next v ∧
      exec (.ffrom fd xa xb) v = .next t ∧ t.readF fd = s.readF fa ∧ t.response = some .ok

/-- MSB and LSB write the index of the highest and of the lowest 1 bit of the 32-bit pattern, `-1` for zero, and nothing
else; the indices agree exactly on the powers of two (R120, R121). -/
def Obligations.BitScansFindTheBits : Prop :=
  ∀ (xd xa : XReg) (s : State),
    encode (.msb xd xa) = commandWord 0x1B xd xa 0 0 ∧ encode (.lsb xd xa) = commandWord 0x1C xd xa 0 0 ∧
    ∃ m l : Word,
      exec (.msb xd xa) s = .next { s with x := s.x.set xd.val m, response := some .ok } ∧
      exec (.lsb xd xa) s = .next { s with x := s.x.set xd.val l, response := some .ok } ∧
      (s.readX xa = 0 → m.toInt = -1 ∧ l.toInt = -1) ∧
      (s.readX xa ≠ 0 →
        (2 ^ m.toNat ≤ (s.readX xa).toNat ∧ (s.readX xa).toNat < 2 ^ (m.toNat + 1)) ∧
        (2 ^ l.toNat ∣ (s.readX xa).toNat ∧ ¬2 ^ (l.toNat + 1) ∣ (s.readX xa).toNat) ∧
        (m = l ↔ ∃ n, (s.readX xa).toNat = 2 ^ n))

/-! ### The filter units (41_filters.md) -/

/-- IIRNEW makes a new unit for a depth power up to 31 and raises `FilterConfig` above; IIRPUSH pushes into a valid unit
with no overflow, and IIRAVG copies its average; both raise `FilterInvalid` on a unit never made. Nothing else changes
(R140, R143 to R146). -/
def Obligations.IirCommandsFollowTheRecurrence : Prop :=
  (∀ (u : UnitId) (xa xd : XReg) (dp : BitVec 12),
    encode (.iirnew u xa dp) = commandWord 0x20 u xa 0 dp.toNat ∧
    encode (.iirpush u xa) = commandWord 0x21 u xa 0 0 ∧
    encode (.iiravg xd u) = commandWord 0x22 xd u 0 0) ∧
  (∀ (u : UnitId) (xa : XReg) (dp : BitVec 12) (s : State),
    (dp.toNat ≤ 31 → ∃ v : Iir, v.IsNew dp.toNat (s.readX xa) ∧
      exec (.iirnew u xa dp) s = .next { s with iir := s.iir.set u.val v, response := some .ok }) ∧
    (31 < dp.toNat → exec (.iirnew u xa dp) s = .next (s.raise .filterConfig (encode (.iirnew u xa dp))))) ∧
  (∀ (u : UnitId) (xa : XReg) (s : State),
    ((s.readIir u).valid = true → (s.readIir u).Consistent → ∃ v : Iir, v.IsPush (s.readIir u) (s.readX xa) ∧
      exec (.iirpush u xa) s = .next { s with iir := s.iir.set u.val v, response := some .ok }) ∧
    ((s.readIir u).valid = false →
      exec (.iirpush u xa) s = .next (s.raise .filterInvalid (encode (.iirpush u xa))))) ∧
  ∀ (xd : XReg) (u : UnitId) (s : State),
    ((s.readIir u).valid = true →
      exec (.iiravg xd u) s = .next { s with x := s.x.set xd.val (s.readIir u).avg, response := some .ok }) ∧
    ((s.readIir u).valid = false →
      exec (.iiravg xd u) s = .next (s.raise .filterInvalid (encode (.iiravg xd u))))

/-- Feeding a constant drives the IIR average to it in finitely many pushes, where it stays with the unit unchanged, and
the average never crosses the constant; the number of pushes is not a window length, as R147's example shows (R147). -/
def Obligations.IirConvergesToAConstant : Prop :=
  (∀ (u : Iir) (v : Word), u.Consistent →
    (∃ n, ∀ m, n ≤ m → (iirPushes m u v).avg = v ∧ iirPushes m u v = iirPushes n u v) ∧
    (∀ n, u.avg.toInt ≤ v.toInt → (iirPushes n u v).avg.toInt ≤ v.toInt) ∧
    ∀ n, v.toInt ≤ u.avg.toInt → v.toInt ≤ (iirPushes n u v).avg.toInt) ∧
  (iirPushes 12 (iirNew 2 100) 200).avg = 197

/-- If every sample and the initial value lie in a range, the IIR average stays in it, and the running sum stays within
the bounds that keep it far inside `int64` (R140). -/
def Obligations.IirStaysInTheSampleRange : Prop :=
  ∀ (dp : Fin 32) (init : Word) (vs : List Word) (m M : Int),
    (m ≤ init.toInt ∧ init.toInt ≤ M) → (∀ v ∈ vs, m ≤ v.toInt ∧ v.toInt ≤ M) →
    let u := vs.foldl iirPush (iirNew dp init)
    m ≤ u.avg.toInt ∧ u.avg.toInt ≤ M ∧
      m * 2 ^ dp.val ≤ u.sum.toInt ∧ u.sum.toInt ≤ (M + 1) * 2 ^ dp.val - 1

/-- FIRNEW makes a new unit for a depth power up to 5 and raises `FilterConfig` above; FIRPUSH pushes into a valid unit
with no overflow, and FIRAVG copies its average; both raise `FilterInvalid` on a unit never made. Nothing else changes
(R140, R148 to R151). -/
def Obligations.FirCommandsFollowTheRecurrence : Prop :=
  (∀ (u : UnitId) (xa xd : XReg) (dp : BitVec 12),
    encode (.firnew u xa dp) = commandWord 0x24 u xa 0 dp.toNat ∧
    encode (.firpush u xa) = commandWord 0x25 u xa 0 0 ∧
    encode (.firavg xd u) = commandWord 0x26 xd u 0 0) ∧
  (∀ (u : UnitId) (xa : XReg) (dp : BitVec 12) (s : State),
    (dp.toNat ≤ 5 → ∃ v : Fir, v.IsNew (s.readFir u) dp.toNat (s.readX xa) ∧
      exec (.firnew u xa dp) s = .next { s with fir := s.fir.set u.val v, response := some .ok }) ∧
    (5 < dp.toNat → exec (.firnew u xa dp) s = .next (s.raise .filterConfig (encode (.firnew u xa dp))))) ∧
  (∀ (u : UnitId) (xa : XReg) (s : State),
    ((s.readFir u).valid = true → (s.readFir u).Consistent → ∃ v : Fir, v.IsPush (s.readFir u) (s.readX xa) ∧
      exec (.firpush u xa) s = .next { s with fir := s.fir.set u.val v, response := some .ok }) ∧
    ((s.readFir u).valid = false →
      exec (.firpush u xa) s = .next (s.raise .filterInvalid (encode (.firpush u xa))))) ∧
  ∀ (xd : XReg) (u : UnitId) (s : State),
    ((s.readFir u).valid = true →
      exec (.firavg xd u) s = .next { s with x := s.x.set xd.val (s.readFir u).avg, response := some .ok }) ∧
    ((s.readFir u).valid = false →
      exec (.firavg xd u) s = .next (s.raise .filterInvalid (encode (.firavg xd u))))

/-- After `2^dp` pushes of a constant every slot in use holds it, the running sum is `v * 2^dp` and the average is `v`
exactly, whatever the unit held before; after `2^dp` or more pushes the window, the sum and the average depend on the
pushed samples alone; a new unit already averages its initial value (R152). -/
def Obligations.FirWindowFillsWithAConstant : Prop :=
  (∀ (u : Fir) (v : Word), u.Consistent →
    (firPushes (2 ^ u.dp.val) u v).avg = v ∧
    (firPushes (2 ^ u.dp.val) u v).sum.toInt = v.toInt * 2 ^ u.dp.val ∧
    ∀ j : Fin 32, j.val < 2 ^ u.dp.val → (firPushes (2 ^ u.dp.val) u v).buf[j.val] = v) ∧
  (∀ (u w : Fir) (vs : List Word), u.Consistent → w.Consistent → u.dp = w.dp → u.cur = w.cur →
    2 ^ u.dp.val ≤ vs.length →
    (vs.foldl firPush u).sum = (vs.foldl firPush w).sum ∧ (vs.foldl firPush u).avg = (vs.foldl firPush w).avg ∧
    (vs.foldl firPush u).cur = (vs.foldl firPush w).cur ∧
    ∀ j : Fin 32, j.val < 2 ^ u.dp.val → (vs.foldl firPush u).buf[j.val] = (vs.foldl firPush w).buf[j.val]) ∧
  ∀ (u : Fir) (dp : Fin 6) (v : Word), (firNew u dp v).avg = v ∧ (firNew u dp v).Consistent

/-! ### The calibration decoder (42_calibration.md) -/

/-- With the default layout every coefficient is the two's complement value of the bytes R161 lists for it. -/
def Obligations.CoefficientsInByteTerms : Prop :=
  ∀ b : Vector Byte 18,
    coefValue b Config.coefLayout[0] = signedValue (b[0].toNat * 16 + b[1].toNat / 16) 12 ∧
    coefValue b Config.coefLayout[1] = signedValue (b[1].toNat % 16 * 256 + b[2].toNat) 12 ∧
    coefValue b Config.coefLayout[2] = signedValue (b[3].toNat * 4096 + b[4].toNat * 16 + b[5].toNat / 16) 20 ∧
    coefValue b Config.coefLayout[3] = signedValue (b[5].toNat % 16 * 65536 + b[6].toNat * 256 + b[7].toNat) 20 ∧
    coefValue b Config.coefLayout[4] = signedValue (b[8].toNat * 256 + b[9].toNat) 16 ∧
    coefValue b Config.coefLayout[5] = signedValue (b[10].toNat * 256 + b[11].toNat) 16 ∧
    coefValue b Config.coefLayout[6] = signedValue (b[12].toNat * 256 + b[13].toNat) 16 ∧
    coefValue b Config.coefLayout[7] = signedValue (b[14].toNat * 256 + b[15].toNat) 16 ∧
    coefValue b Config.coefLayout[8] = signedValue (b[16].toNat * 256 + b[17].toNat) 16

/-- CEXT writes the two's complement value of the field that the layout parameter gives the index, for every valid layout,
and nothing else; an index above 8 raises `IllegalCommand` (R11, R160, R161, R162). -/
def Obligations.CextReadsTheField : Prop :=
  ∀ (xd : XReg) (k : CtxId) (i : BitVec 4) (s : State), s.params.valid = true →
    encode (.cext xd k i) = commandWord 0x30 xd k i.toNat 0 ∧
    (∀ h : i.toNat < 9, ∃ v : Word,
      v.toInt = signedValue (rawField (s.readCtx k).coef s.params.coefLayout[i.toNat])
        s.params.coefLayout[i.toNat].width ∧
      exec (.cext xd k i) s = .next { s with x := s.x.set xd.val v, response := some .ok }) ∧
    (9 ≤ i.toNat → exec (.cext xd k i) s = .next (s.raise .illegalCommand (encode (.cext xd k i))))

/-- KSEL sets both scale factors to the table entries of the two oversampling codes exactly, KSET one of them to a
register's value, before calibration; on a calibrated context both raise `ConfigLocked`. Nothing else changes (R164,
R165, R166). -/
def Obligations.ScaleFactorsAreSetUntilLocked : Prop :=
  (∀ (k : CtxId) (fa : FReg), encode (.ksel k) = commandWord 0x31 k 0 0 0 ∧
    encode (.kset k fa .temperature) = commandWord 0x32 k fa 0 0 ∧
    encode (.kset k fa .pressure) = commandWord 0x32 k fa 1 0) ∧
  (∀ (k : CtxId) (s : State), (s.readCtx k).calibrated = false →
    ∃ kt kp : SoftFloat,
      kt.Normalized ∧ kt.val = (s.params.scaleTable[(s.readCtx k).mcfg.toNat / 16 % 8]).toInt ∧
      kp.Normalized ∧ kp.val = (s.params.scaleTable[(s.readCtx k).mcfg.toNat % 8]).toInt ∧
      exec (.ksel k) s = .next
        { s with ctx := s.ctx.set k.val { s.readCtx k with kt := kt, kp := kp }, response := some .ok }) ∧
  (∀ (k : CtxId) (fa : FReg) (s : State), (s.readCtx k).calibrated = false →
    exec (.kset k fa .temperature) s = .next
      { s with ctx := s.ctx.set k.val { s.readCtx k with kt := s.readF fa }, response := some .ok } ∧
    exec (.kset k fa .pressure) s = .next
      { s with ctx := s.ctx.set k.val { s.readCtx k with kp := s.readF fa }, response := some .ok }) ∧
  ∀ (k : CtxId) (fa : FReg) (ch : Channel) (s : State), (s.readCtx k).calibrated = true →
    exec (.ksel k) s = .next (s.raise .configLocked (encode (.ksel k))) ∧
    exec (.kset k fa ch) s = .next (s.raise .configLocked (encode (.kset k fa ch)))

/-- CINIT decodes the nine fields and divides each by its scale factors, pressure first, every division truncated on its
own; it writes `craw`, `c` and `CALIBRATED` and nothing else. It raises `ConfigLocked` on a calibrated context, then
`DivisionByZero` while a scale factor is zero, then `ExponentRange` where a quotient has no SoftFloat, which factors with
exponents inside `2^29` exclude (R167). -/
def Obligations.CinitDecodesAndScales : Prop :=
  (∀ k : CtxId, encode (.cinit k) = commandWord 0x33 k 0 0 0) ∧
  (∀ (k : CtxId) (s : State), (s.readCtx k).calibrated = true →
    exec (.cinit k) s = .next (s.raise .configLocked (encode (.cinit k)))) ∧
  (∀ (k : CtxId) (s : State), (s.readCtx k).calibrated = false →
    (s.readCtx k).kt.mant = 0 ∨ (s.readCtx k).kp.mant = 0 →
    exec (.cinit k) s = .next (s.raise .divisionByZero (encode (.cinit k)))) ∧
  ∀ (k : CtxId) (s : State), s.params.valid = true → (s.readCtx k).calibrated = false →
    (s.readCtx k).kt.Normalized → (s.readCtx k).kp.Normalized →
    (s.readCtx k).kt.mant ≠ 0 → (s.readCtx k).kp.mant ≠ 0 →
    ∃ r : Vector Word 9,
      (∀ i : Fin 9, (r[i.val]).toInt =
        signedValue (rawField (s.readCtx k).coef s.params.coefLayout[i.val]) s.params.coefLayout[i.val].width) ∧
      (∀ n, IsScaledSet n r (s.readCtx k).kt (s.readCtx k).kp →
        exec (.cinit k) s = .next
          { s with
            ctx := s.ctx.set k.val { s.readCtx k with craw := r, c := n, calibrated := true }
            response := some .ok }) ∧
      ((¬∃ n, IsScaledSet n r (s.readCtx k).kt (s.readCtx k).kp) →
        exec (.cinit k) s = .next (s.raise .exponentRange (encode (.cinit k)))) ∧
      ((s.readCtx k).kt.InnerExponent → (s.readCtx k).kp.InnerExponent →
        ∃ n, IsScaledSet n r (s.readCtx k).kt (s.readCtx k).kp ∧
          exec (.cinit k) s = .next
            { s with
              ctx := s.ctx.set k.val { s.readCtx k with craw := r, c := n, calibrated := true }
              response := some .ok })

/-- CGET copies the SoftFloat its index names, the one that the port shows in the same order, calibrated or not, and
nothing else; an index above 12 raises `IllegalCommand` (R53, R168). -/
def Obligations.CgetReadsTheNamedPlace : Prop :=
  ∀ (fd : FReg) (k : CtxId) (i : BitVec 4) (s : State),
    encode (.cget fd k i) = commandWord 0x34 fd k i.toNat 0 ∧
    (∀ r, (i.toNat ≤ 8 ∧ r = 0x140 + 0x100 * k.val + 2 * i.toNat ∨
        9 ≤ i.toNat ∧ i.toNat ≤ 12 ∧ r = 0x104 + 0x100 * k.val + 2 * (i.toNat - 9)) →
      exec (.cget fd k i) s = .next
        { s with f := s.f.set fd.val { mant := s.portRead r, exp := s.portRead (r + 1) }, response := some .ok }) ∧
    (13 ≤ i.toNat → exec (.cget fd k i) s = .next (s.raise .illegalCommand (encode (.cget fd k i))))

/-! ### The compensation evaluator (43_compensation.md) -/

/-- ADCEXT writes the signed 24-bit count of the channel's three bytes, the first most significant, and nothing else (R57,
R180, R181). -/
def Obligations.AdcextReadsTheRawCount : Prop :=
  ∀ (xd : XReg) (k : CtxId) (s : State),
    encode (.adcext xd k .temperature) = commandWord 0x38 xd k 0 0 ∧
    encode (.adcext xd k .pressure) = commandWord 0x38 xd k 1 0 ∧
    (∃ v : Word,
      v.toInt = signedValue ((s.readCtx k).rawt[0].toNat * 65536 + (s.readCtx k).rawt[1].toNat * 256 +
        (s.readCtx k).rawt[2].toNat) 24 ∧
      exec (.adcext xd k .temperature) s = .next { s with x := s.x.set xd.val v, response := some .ok }) ∧
    ∃ v : Word,
      v.toInt = signedValue ((s.readCtx k).rawp[0].toNat * 65536 + (s.readCtx k).rawp[1].toNat * 256 +
        (s.readCtx k).rawp[2].toNat) 24 ∧
      exec (.adcext xd k .pressure) s = .next { s with x := s.x.set xd.val v, response := some .ok }

/-- COMP of a calibrated context evaluates the two polynomials in the order of R182, every operation truncated on its own,
writes `tcomp`, `pcomp` and `COMPVALID` and nothing else; it raises `ExponentRange` where an operation has no SoftFloat,
which coefficients with exponents inside `2^29` exclude; raw counts of 0 give `c0` and `c00` exactly; uncalibrated it
raises `NotCalibrated` (R106, R182). -/
def Obligations.CompEvaluatesThePolynomials : Prop :=
  (∀ k : CtxId, encode (.comp k) = commandWord 0x39 k 0 0 0) ∧
  (∀ (k : CtxId) (s : State), (s.readCtx k).calibrated = true → (s.readCtx k).PlacesNormalized →
    (∀ T P, IsCompensation (s.readCtx k).c (adcValue (s.readCtx k).rawt) (adcValue (s.readCtx k).rawp) T P →
      exec (.comp k) s = .next
        { s with
          ctx := s.ctx.set k.val { s.readCtx k with tcomp := T, pcomp := P, compvalid := true }
          response := some .ok }) ∧
    ((¬∃ T P, IsCompensation (s.readCtx k).c (adcValue (s.readCtx k).rawt) (adcValue (s.readCtx k).rawp) T P) →
      exec (.comp k) s = .next (s.raise .exponentRange (encode (.comp k)))) ∧
    ((∀ i : Fin 9, ((s.readCtx k).c[i.val]).InnerExponent) →
      ∃ T P, IsCompensation (s.readCtx k).c (adcValue (s.readCtx k).rawt) (adcValue (s.readCtx k).rawp) T P ∧
        exec (.comp k) s = .next
          { s with
            ctx := s.ctx.set k.val { s.readCtx k with tcomp := T, pcomp := P, compvalid := true }
            response := some .ok }) ∧
    ((s.readCtx k).rawt = Vector.replicate 3 0 → (s.readCtx k).rawp = Vector.replicate 3 0 →
      exec (.comp k) s = .next
        { s with
          ctx := s.ctx.set k.val
            { s.readCtx k with tcomp := (s.readCtx k).c[0], pcomp := (s.readCtx k).c[2], compvalid := true }
          response := some .ok })) ∧
  ∀ (k : CtxId) (s : State), (s.readCtx k).calibrated = false →
    exec (.comp k) s = .next (s.raise .notCalibrated (encode (.comp k)))

/-! ### The dual filter pipeline (44_pipeline.md) -/

/-- The priming PFEED fixes `fexp` at the sample's exponent plus `FHEAD` and makes both filters new, at the depths of
`FCFG`, with the mantissa shifted toward zero by `FHEAD`; nothing else changes. The context is the word's field `d` (R74,
R191, R192). -/
def Obligations.PfeedPrimesThePipeline : Prop :=
  (∀ k : CtxId, encode (.pfeed k) = commandWord 0x40 k 0 0 0) ∧
  ∀ (k : CtxId) (s : State), (s.readCtx k).compvalid = true → (s.readCtx k).primed = false →
    (s.readCtx k).fcfg.toNat % 32 ≤ 5 → (s.readCtx k).fcfg.toNat / 256 % 32 ≤ 5 →
    (s.readCtx k).pcomp.exp.toInt + ((s.readCtx k).fcfg.toNat / 65536 % 16 : Nat) ≤ 2147483647 →
    ∃ (fexp x : Word) (shal deep : Fir),
      fexp.toInt = (s.readCtx k).pcomp.exp.toInt + ((s.readCtx k).fcfg.toNat / 65536 % 16 : Nat) ∧
      x.toInt = (s.readCtx k).pcomp.mant.toInt.tdiv (2 ^ ((s.readCtx k).fcfg.toNat / 65536 % 16)) ∧
      shal.IsNew (s.readCtx k).shal ((s.readCtx k).fcfg.toNat % 32) x ∧
      deep.IsNew (s.readCtx k).deep ((s.readCtx k).fcfg.toNat / 256 % 32) x ∧
      exec (.pfeed k) s = .next
        { s with
          ctx := s.ctx.set k.val { s.readCtx k with fexp := fexp, shal := shal, deep := deep, primed := true }
          response := some .ok }

/-- A primed PFEED pushes one integer, the mantissa shifted toward zero to the scale `2^fexp`, into both filters; `ZERO`
enters as 0; nothing else changes (R192, R193, R194). -/
def Obligations.PfeedPushesBothFilters : Prop :=
  ∀ (k : CtxId) (s : State), (s.readCtx k).compvalid = true → (s.readCtx k).primed = true →
    (s.readCtx k).shal.Consistent → (s.readCtx k).deep.Consistent →
    ((s.readCtx k).pcomp.mant = 0 ∨ (s.readCtx k).pcomp.exp.toInt ≤ (s.readCtx k).fexp.toInt) →
    ∃ (x : Word) (shal deep : Fir),
      ((s.readCtx k).pcomp.mant = 0 → x = 0) ∧
      ((s.readCtx k).pcomp.mant ≠ 0 → x.toInt = (s.readCtx k).pcomp.mant.toInt.tdiv
        (2 ^ (min ((s.readCtx k).fexp.toInt - (s.readCtx k).pcomp.exp.toInt) 31).toNat)) ∧
      shal.IsPush (s.readCtx k).shal x ∧ deep.IsPush (s.readCtx k).deep x ∧
      exec (.pfeed k) s = .next
        { s with
          ctx := s.ctx.set k.val { s.readCtx k with shal := shal, deep := deep }
          response := some .ok }

/-- PFEED raises `NoSample` before any COMP; priming, `FilterConfig` for a depth above 5, then `ExponentRange`; primed,
`PipelineRange` for a sample above the scale (R192, R193, R232). -/
def Obligations.PfeedFaultsInOrder : Prop :=
  ∀ (k : CtxId) (s : State),
    ((s.readCtx k).compvalid = false → exec (.pfeed k) s = .next (s.raise .noSample (encode (.pfeed k)))) ∧
    ((s.readCtx k).compvalid = true → (s.readCtx k).primed = false →
      5 < (s.readCtx k).fcfg.toNat % 32 ∨ 5 < (s.readCtx k).fcfg.toNat / 256 % 32 →
      exec (.pfeed k) s = .next (s.raise .filterConfig (encode (.pfeed k)))) ∧
    ((s.readCtx k).compvalid = true → (s.readCtx k).primed = false →
      (s.readCtx k).fcfg.toNat % 32 ≤ 5 → (s.readCtx k).fcfg.toNat / 256 % 32 ≤ 5 →
      2147483647 < (s.readCtx k).pcomp.exp.toInt + ((s.readCtx k).fcfg.toNat / 65536 % 16 : Nat) →
      exec (.pfeed k) s = .next (s.raise .exponentRange (encode (.pfeed k)))) ∧
    ((s.readCtx k).compvalid = true → (s.readCtx k).primed = true → (s.readCtx k).pcomp.mant ≠ 0 →
      (s.readCtx k).fexp.toInt < (s.readCtx k).pcomp.exp.toInt →
      exec (.pfeed k) s = .next (s.raise .pipelineRange (encode (.pfeed k))))

/-- PSHAL and PDEEP of a primed context write the normalized SoftFloat whose value is exactly `avg * 2^fexp` and nothing
else; they raise `ExponentRange` where there is none, and complete for every `fexp` from `-2^31 + 30` up, but for an average
of `-2^31`, which no normalized sample gives, at `fexp = 2^31 - 1`; unprimed they raise `NotPrimed` (R195, R196, R197). -/
def Obligations.FilterReadsAreExact : Prop :=
  ∀ (fd : FReg) (k : CtxId) (s : State),
    encode (.pshal fd k) = commandWord 0x41 fd k 0 0 ∧ encode (.pdeep fd k) = commandWord 0x42 fd k 0 0 ∧
    ((s.readCtx k).primed = true →
      (∀ q : SoftFloat, q.Normalized →
        (q.val = ((s.readCtx k).shal.avg.toInt : ℚ) * 2 ^ (s.readCtx k).fexp.toInt →
          exec (.pshal fd k) s = .next { s with f := s.f.set fd.val q, response := some .ok }) ∧
        (q.val = ((s.readCtx k).deep.avg.toInt : ℚ) * 2 ^ (s.readCtx k).fexp.toInt →
          exec (.pdeep fd k) s = .next { s with f := s.f.set fd.val q, response := some .ok })) ∧
      ((¬∃ q : SoftFloat, q.Normalized ∧
          q.val = ((s.readCtx k).shal.avg.toInt : ℚ) * 2 ^ (s.readCtx k).fexp.toInt) →
        exec (.pshal fd k) s = .next (s.raise .exponentRange (encode (.pshal fd k)))) ∧
      ((¬∃ q : SoftFloat, q.Normalized ∧
          q.val = ((s.readCtx k).deep.avg.toInt : ℚ) * 2 ^ (s.readCtx k).fexp.toInt) →
        exec (.pdeep fd k) s = .next (s.raise .exponentRange (encode (.pdeep fd k)))) ∧
      (-2147483618 ≤ (s.readCtx k).fexp.toInt →
        ((s.readCtx k).fexp.toInt ≤ 2147483646 ∨ (s.readCtx k).shal.avg.toInt ≠ -2147483648 →
          ∃ q : SoftFloat, q.Normalized ∧
            q.val = ((s.readCtx k).shal.avg.toInt : ℚ) * 2 ^ (s.readCtx k).fexp.toInt ∧
            exec (.pshal fd k) s = .next { s with f := s.f.set fd.val q, response := some .ok }) ∧
        ((s.readCtx k).fexp.toInt ≤ 2147483646 ∨ (s.readCtx k).deep.avg.toInt ≠ -2147483648 →
          ∃ q : SoftFloat, q.Normalized ∧
            q.val = ((s.readCtx k).deep.avg.toInt : ℚ) * 2 ^ (s.readCtx k).fexp.toInt ∧
            exec (.pdeep fd k) s = .next { s with f := s.f.set fd.val q, response := some .ok }))) ∧
    ((s.readCtx k).primed = false →
      exec (.pshal fd k) s = .next (s.raise .notPrimed (encode (.pshal fd k))) ∧
      exec (.pdeep fd k) s = .next (s.raise .notPrimed (encode (.pdeep fd k))))

/-- PSNAP copies the average and the pipeline exponent of one state into `x[xd]` and `x[xd + 1]` and changes nothing else;
FFROM of the pair equals PSHAL or PDEEP at the same state, value and fault alike; `xd = 7` raises `IllegalCommand`, an
unprimed context `NotPrimed` (R198). -/
def Obligations.PsnapCopiesThePair : Prop :=
  (∀ (xd : XReg) (k : CtxId), encode (.psnap xd k .shallow) = commandWord 0x43 xd k 0 0 ∧
    encode (.psnap xd k .deep) = commandWord 0x43 xd k 1 0) ∧
  (∀ (xd : XReg) (k : CtxId) (s : State) (h : xd.val + 1 < 8), (s.readCtx k).primed = true →
    exec (.psnap xd k .shallow) s = .next
      { s with
        x := (s.x.set xd.val (s.readCtx k).shal.avg).set (xd.val + 1) (s.readCtx k).fexp
        response := some .ok } ∧
    exec (.psnap xd k .deep) s = .next
      { s with
        x := (s.x.set xd.val (s.readCtx k).deep.avg).set (xd.val + 1) (s.readCtx k).fexp
        response := some .ok } ∧
    ∀ (fd : FReg) (u t v : State),
      (exec (.psnap xd k .deep) s = .next u → exec (.ffrom fd xd ⟨xd.val + 1, h⟩) u = .next t →
        exec (.pdeep fd k) s = .next v → t.f = v.f ∧ t.response = v.response) ∧
      (exec (.psnap xd k .shallow) s = .next u → exec (.ffrom fd xd ⟨xd.val + 1, h⟩) u = .next t →
        exec (.pshal fd k) s = .next v → t.f = v.f ∧ t.response = v.response)) ∧
  ∀ (xd : XReg) (k : CtxId) (sel : FilterSel) (s : State),
    (xd.val = 7 → exec (.psnap xd k sel) s = .next (s.raise .illegalCommand (encode (.psnap xd k sel)))) ∧
    (xd.val < 7 → (s.readCtx k).primed = false →
      exec (.psnap xd k sel) s = .next (s.raise .notPrimed (encode (.psnap xd k sel))))

/-- ADIFF of two primed contexts writes the truncated difference of their exact deep values, total less static, and
nothing else; it raises `ExponentRange` where one of the three has no SoftFloat, which pipeline exponents inside `2^29`
exclude; one context against itself gives `ZERO`; while either context is unprimed it raises `NotPrimed` (R199). -/
def Obligations.AdiffSubtractsTheDeepValues : Prop :=
  ∀ (fd : FReg) (kt ks : CtxId) (s : State),
    encode (.adiff fd kt ks) = commandWord 0x44 fd kt ks 0 ∧
    ((s.readCtx kt).primed = true → (s.readCtx ks).primed = true →
      (∀ q, IsPressureDifference q (s.readCtx kt) (s.readCtx ks) →
        exec (.adiff fd kt ks) s = .next { s with f := s.f.set fd.val q, response := some .ok }) ∧
      ((¬∃ q, IsPressureDifference q (s.readCtx kt) (s.readCtx ks)) →
        exec (.adiff fd kt ks) s = .next (s.raise .exponentRange (encode (.adiff fd kt ks)))) ∧
      ((-(2 ^ 29) ≤ (s.readCtx kt).fexp.toInt ∧ (s.readCtx kt).fexp.toInt ≤ 2 ^ 29) →
        (-(2 ^ 29) ≤ (s.readCtx ks).fexp.toInt ∧ (s.readCtx ks).fexp.toInt ≤ 2 ^ 29) →
        ∃ q, IsPressureDifference q (s.readCtx kt) (s.readCtx ks) ∧ (kt = ks → q = SoftFloat.zero) ∧
          exec (.adiff fd kt ks) s = .next { s with f := s.f.set fd.val q, response := some .ok })) ∧
    ((s.readCtx kt).primed = false ∨ (s.readCtx ks).primed = false →
      exec (.adiff fd kt ks) s = .next (s.raise .notPrimed (encode (.adiff fd kt ks))))

/-- Equal total and static pressures give exactly `ZERO`, whatever the scales the two contexts hold them at: wherever the
common value `avg * 2^fexp` has a SoftFloat, which it has for every total `fexp` from `-2^31 + 30` up, but for an average of
`-2^31` at `fexp = 2^31 - 1` (R195, R199, R202). -/
def Obligations.EqualPressuresGiveZero : Prop :=
  ∀ (fd : FReg) (kt ks : CtxId) (s : State),
    (s.readCtx kt).primed = true → (s.readCtx ks).primed = true →
    ((s.readCtx kt).deep.avg.toInt : ℚ) * 2 ^ (s.readCtx kt).fexp.toInt =
      ((s.readCtx ks).deep.avg.toInt : ℚ) * 2 ^ (s.readCtx ks).fexp.toInt →
    ((∃ q : SoftFloat, q.Normalized ∧
        q.val = ((s.readCtx kt).deep.avg.toInt : ℚ) * 2 ^ (s.readCtx kt).fexp.toInt) →
      exec (.adiff fd kt ks) s = .next { s with f := s.f.set fd.val SoftFloat.zero, response := some .ok }) ∧
    (-2147483618 ≤ (s.readCtx kt).fexp.toInt →
      (s.readCtx kt).fexp.toInt ≤ 2147483646 ∨ (s.readCtx kt).deep.avg.toInt ≠ -2147483648 →
      exec (.adiff fd kt ks) s = .next { s with f := s.f.set fd.val SoftFloat.zero, response := some .ok })

/-- PRESET puts one context's pipeline back to its reset values, primed or not, and changes nothing else (R200). -/
def Obligations.PresetResetsThePipeline : Prop :=
  ∀ (k : CtxId) (s : State),
    encode (.preset k) = commandWord 0x45 k 0 0 0 ∧
    exec (.preset k) s = .next
      { s with
        ctx := s.ctx.set k.val
          { s.readCtx k with
            primed := false, fexp := 0
            shal := { valid := false, dp := 0, sum := 0, avg := 0, buf := Vector.replicate 32 0, cur := 0 }
            deep := { valid := false, dp := 0, sum := 0, avg := 0, buf := Vector.replicate 32 0, cur := 0 } }
        response := some .ok }

/-- After the priming PFEED, PSHAL and PDEEP both return `pcomp` with the low `FHEAD` bits of its magnitude cleared: with
`FHEAD = 0`, `pcomp` bit for bit (R201). -/
def Obligations.FirstSampleIsReturnedExactly : Prop :=
  ∀ (fd : FReg) (k : CtxId) (s u : State), (s.readCtx k).Inv → (s.readCtx k).compvalid = true →
    (s.readCtx k).primed = false → exec (.pfeed k) s = .next u → u.response = some .ok →
    ∃ q : SoftFloat, q.exp = (s.readCtx k).pcomp.exp ∧
      q.mant.toInt = (s.readCtx k).pcomp.mant.toInt.tdiv (2 ^ ((s.readCtx k).fcfg.toNat / 65536 % 16)) *
        2 ^ ((s.readCtx k).fcfg.toNat / 65536 % 16) ∧
      ((s.readCtx k).fcfg.toNat / 65536 % 16 = 0 → q = (s.readCtx k).pcomp) ∧
      exec (.pshal fd k) u = .next { u with f := s.f.set fd.val q, response := some .ok } ∧
      exec (.pdeep fd k) u = .next { u with f := s.f.set fd.val q, response := some .ok }

/-! ### The host port (20_memory.md) -/

/-- The register map is one to one: every register is at its number, all below `0x300`, and no other number names a
register (R51, R53). -/
def Obligations.RegisterMapIsOneToOne : Prop :=
  (∀ reg : PortReg, portMap reg.number = some reg ∧ reg.number < 0x300) ∧
  ∀ (n : Nat) (reg : PortReg), portMap n = some reg → reg.number = n

/-- A port write shows at its own number in the writable bits of its register and leaves every other port register as it
read; a write to a read-only or unmapped number changes nothing (R52, R55, R56). -/
def Obligations.PortWritesShowWhereWritten : Prop :=
  ∀ (s : State) (r : Nat) (v : Word), r ≠ 0 →
    (∀ r', r' ≠ r → (s.portWrite r v).portRead r' = s.portRead r') ∧
    (portMap r = none → s.portWrite r v = s) ∧
    (∀ reg, portMap r = some reg → reg.access = .ro → s.portWrite r v = s) ∧
    (0x008 ≤ r ∧ r < 0x010 → (s.portWrite r v).portRead r = v) ∧
    (r = 0x100 ∨ r = 0x200 → (s.portWrite r v).portRead r = v &&& 0x77#32) ∧
    (r = 0x101 ∨ r = 0x201 → (s.portWrite r v).portRead r = v &&& 0xF1F1F#32) ∧
    (0x110 ≤ r ∧ r < 0x122 ∨ 0x124 ≤ r ∧ r < 0x127 ∨ 0x128 ≤ r ∧ r < 0x12B ∨
        0x210 ≤ r ∧ r < 0x222 ∨ 0x224 ≤ r ∧ r < 0x227 ∨ 0x228 ≤ r ∧ r < 0x22B →
      (s.portWrite r v).portRead r = v &&& 0xFF#32)

/-- A host write to `STATUS` clears every flag whose bit is 1 in the word, leaves the others, and changes no other field;
the reserved bits of a legal record read 0 before and after (R26). -/
def Obligations.StatusIsWriteOneToClear : Prop :=
  ∀ (s : State) (v : Word),
    (∀ n, ((s.portWrite 1 v).portRead 1).getLsbD n =
      (s.status.getLsbD n && !(v.getLsbD n && decide (1 ≤ n ∧ n ≤ 10)))) ∧
    s.portWrite 1 v = { s with status := (s.portWrite 1 v).status } ∧
    (s.RecordLegal → ∀ n, n = 0 ∨ 11 ≤ n →
      (s.portRead 1).getLsbD n = false ∧ ((s.portWrite 1 v).portRead 1).getLsbD n = false)

/-- Port accesses never fault. A port read answers the register's value, 0 for an unmapped number or `CMD`, and changes
nothing; a port write of a register other than `CMD` answers `ok`, and of an unmapped or read-only one stores nothing
(R52, R59, R234). -/
def Obligations.PortTransactionsTakeEffectAlone : Prop :=
  ∀ (s : State) (r : Nat) (v : Word) (rest : List Event),
    (s.pending = .read r :: rest →
      step s = .next { s with pending := rest, response := some (.value (s.portRead r)) }) ∧
    (s.pending = .write r v :: rest → r ≠ 0 →
      step s = .next { s.portWrite r v with pending := rest, response := some .ok }) ∧
    (portMap r = none ∨ r = 0 → s.portRead r = 0) ∧
    (portMap r = none → s.portWrite r v = s) ∧
    ∀ reg, portMap r = some reg → reg.access = .ro → s.portWrite r v = s

/-! ### Reset and the invariant (10_state.md, 70_reset_and_hazards.md) -/

/-- At the port, the block after reset shows 0 in every register but `FCFG`, which shows `0x00000503` in both contexts
(R43). -/
def Obligations.ResetValuesAtThePort : Prop :=
  ∀ r : Nat, State.reset.portRead r = if r = 0x101 ∨ r = 0x201 then 0x503#32 else 0#32

/-- The reset input brings every state back to the reset state, nothing survives (R250). That the host's later events and
the parameters stay, and that no response is given, is the model's choice (log entries 5 and 6). -/
def Obligations.ResetInputRestoresEverything : Prop :=
  ∀ (s : State) (rest : List Event), s.pending = .reset :: rest →
    step s = .next { State.reset with params := s.params, pending := rest }

/-- The invariant holds after reset, and a CINIT issued then raises `DivisionByZero` (R44). -/
def Obligations.ResetMeetsTheInvariant : Prop :=
  State.reset.Inv ∧
    ∀ k : CtxId, exec (.cinit k) State.reset = .next (State.reset.raise .divisionByZero (encode (.cinit k)))

/-- Every step keeps the invariant: every SoftFloat place normalized, every filter's sum and average consistent, the
pipelines and progress flags in order, the reserved bits zero (R21, R26, R32, R34, R35, R36). -/
def Obligations.EveryStepKeepsTheInvariant : Prop :=
  ∀ s t : State, s.Inv → step s = .next t → t.Inv

/-! ### The host float boundary (45_system.md) -/

/-- `from_float` converts every finite binary32 exactly to a normalized SoftFloat and gives none for NaN and the infinities;
`to_float` brings it back bit for bit under both roundings, but for `-0.0`, which comes back as `+0.0` (R221, R223). That
`fromFloat` answers `none` for NaN and the infinities is the model's choice (log entry 4). -/
def Obligations.HostFloatsRoundTrip : Prop :=
  ∀ x : Word,
    (f32Finite x = true → ∃ q, fromFloat x = some q ∧ q.Normalized ∧
      q.val = (f32Sign x : ℚ) * f32Significand x * 2 ^ f32Scale x ∧
      ∀ mode : F32Round, toFloat mode q = if x = 0x80000000#32 then 0 else x) ∧
    (f32Finite x = false → fromFloat x = none)
end

