-- ==== Sys2Proof/Laws/Arith.lean ====
section
/-! SUPPORT. What the arithmetic primitives compute, in the library's own terms. -/

namespace Sys2Proof.Machine

-- One theorem after another: their proofs do not each take a thread.
set_option Elab.async false

theorem sgn_eq (v : Int) : sgn v = if v < 0 then -1 else 1 := rfl

theorem sgn_mul_natAbs (v : Int) : sgn v * (v.natAbs : Int) = v := by
  unfold sgn; split <;> omega

theorem sgn_cases (v : Int) : sgn v = 1 ∧ 0 ≤ v ∨ sgn v = -1 ∧ v < 0 := by
  unfold sgn; split <;> omega

theorem pow2_pos (n : Nat) : 0 < pow2 n := by
  unfold pow2; exact_mod_cast Nat.two_pow_pos n

@[simp] theorem pow2_zero : pow2 0 = 1 := rfl

/-- The shift toward zero is the library's truncating division. -/
theorem shrTz_eq_tdiv (v : Int) (n : Nat) : shrTz v n = v.tdiv (pow2 n) := by
  rcases sgn_cases v with ⟨h, hv⟩ | ⟨h, hv⟩
  · obtain ⟨m, rfl⟩ := Int.eq_ofNat_of_zero_le hv
    simp [shrTz, h, pow2]
  · obtain ⟨m, hm⟩ := Int.eq_ofNat_of_zero_le (a := -v) (by omega)
    obtain rfl : v = -(m : Int) := by omega
    simp [shrTz, h, pow2, Int.neg_tdiv]

/-- Every integer is its sign times a natural number. -/
theorem sgn_natural (v : Int) : ∃ m : Nat, v = sgn v * (m : Int) ∧ v.natAbs = m :=
  ⟨v.natAbs, (sgn_mul_natAbs v).symm, rfl⟩

/-- Integer division toward zero is the library's truncating division. -/
theorem tquot_eq_tdiv (n d : Int) : tquot n d = n.tdiv d := by
  obtain ⟨a, hn, ha⟩ := sgn_natural n
  obtain ⟨b, hd, hb⟩ := sgn_natural d
  rw [tquot, ha, hb]
  conv_rhs => rw [hn, hd]
  rcases sgn_cases n with ⟨h, _⟩ | ⟨h, _⟩ <;> rcases sgn_cases d with ⟨h', _⟩ | ⟨h', _⟩ <;>
    simp [h, h', Int.neg_tdiv, Int.tdiv_neg]

/-- The arithmetic shift is the floor of the division. -/
theorem asr_eq_ediv (v : Int) (n : Nat) : asr v n = v / pow2 n := by
  unfold asr; exact Int.fdiv_eq_ediv_of_nonneg _ (pow2_pos n).le

/-- The arithmetic shift is characterised by its bounds. -/
theorem asr_eq_iff (v q : Int) (n : Nat) : asr v n = q ↔ q * pow2 n ≤ v ∧ v < (q + 1) * pow2 n := by
  rw [asr_eq_ediv]
  constructor
  · rintro rfl
    exact ⟨Int.ediv_mul_le _ (pow2_pos n).ne', Int.lt_ediv_add_one_mul_self _ (pow2_pos n)⟩
  · rintro ⟨h₁, h₂⟩
    refine le_antisymm ?_ ?_
    · exact Int.lt_add_one_iff.mp ((Int.ediv_lt_iff_lt_mul (pow2_pos n)).mpr h₂)
    · exact (Int.le_ediv_iff_mul_le (pow2_pos n)).mpr h₁

@[simp] theorem asr_shl (v : Int) (n : Nat) : asr (shl v n) n = v := by
  rw [asr_eq_ediv, shl]; exact Int.mul_ediv_cancel _ (pow2_pos n).ne'

/-- A value that fits is stored exactly. -/
theorem int32_toInt (v : Int) (h : -2147483648 ≤ v ∧ v ≤ 2147483647) : (int32 v).toInt = v := by
  rw [int32, BitVec.toInt_ofInt]; exact Int.bmod_eq_of_le (by omega) (by omega)

theorem int64_toInt (v : Int) (h : -9223372036854775808 ≤ v ∧ v ≤ 9223372036854775807) : (int64 v).toInt = v := by
  rw [int64, BitVec.toInt_ofInt]; exact Int.bmod_eq_of_le (by omega) (by omega)

@[simp] theorem int32_toInt_self (w : Word) : int32 w.toInt = w := by simp [int32]

theorem word_toInt_range (w : Word) : -2147483648 ≤ w.toInt ∧ w.toInt ≤ 2147483647 := by
  have h₁ := BitVec.le_toInt w
  have h₂ := BitVec.toInt_lt (x := w)
  norm_num at h₁ h₂
  omega

theorem fitsInt32_iff (v : Int) : fitsInt32 v = true ↔ -2147483648 ≤ v ∧ v ≤ 2147483647 := by
  simp [fitsInt32]

/-- The bit scan of a positive number brackets it between two powers of two. -/
theorem msbIndex_bounds (v : Nat) (h : v ≠ 0) : 2 ^ msbIndex v ≤ v ∧ v < 2 ^ (msbIndex v + 1) :=
  (Nat.log2_eq_iff h).mp rfl

theorem msbIndex_eq_iff (v i : Nat) (h : v ≠ 0) : msbIndex v = i ↔ 2 ^ i ≤ v ∧ v < 2 ^ (i + 1) :=
  Nat.log2_eq_iff h

theorem clamp_bounds (v lo hi : Int) (h : lo ≤ hi) : lo ≤ clamp v lo hi ∧ clamp v lo hi ≤ hi := by
  unfold clamp; split
  · omega
  · split <;> omega

end Sys2Proof.Machine
end

