-- ==== Sys2Proof/Laws/Decode.lean ====
section
/-! SUPPORT. The word and its fields determine each other, and what a decoded command satisfies. -/

namespace Sys2Proof

-- One theorem after another: their proofs do not each take a thread.
set_option Elab.async false

/-- Fields in the ranges of the word's bit fields (R70). -/
abbrev Fields.InRange (q : Fields) : Prop :=
  q.op < 2 ^ 8 ∧ q.d < 2 ^ 4 ∧ q.a < 2 ^ 4 ∧ q.b < 2 ^ 4 ∧ q.imm12 < 2 ^ 12

/-- The fields of a word are in range. -/
theorem fieldsOf_inRange (w : Word) : (fieldsOf w).InRange := by
  have h := w.isLt
  simp only [fieldsOf, Fields.InRange]
  omega

/-- Fields in range are read back from their word. -/
theorem fieldsOf_wordOf (q : Fields) (h : q.InRange) : fieldsOf (wordOf q) = q := by
  obtain ⟨op, d, a, b, imm⟩ := q
  simp only [Fields.InRange] at h
  simp only [fieldsOf, wordOf, BitVec.toNat_ofNat, Fields.mk.injEq]
  omega

/-- A word is the word of its fields. -/
theorem wordOf_fieldsOf (w : Word) : wordOf (fieldsOf w) = w := by
  apply BitVec.eq_of_toNat_eq
  have h := w.isLt
  simp only [fieldsOf, wordOf, BitVec.toNat_ofNat]
  omega

/-- A decoded command is well-formed. -/
theorem decode_wellFormed {w : Word} {i : Instr} (h : decode w = .ok i) : i.wellFormed = true := by
  unfold decode at h
  split at h
  · cases h
  · split at h
    · split at h
      · cases h
      · split at h
        · cases h; assumption
        · cases h
    · cases h

/-- What decoding needs to answer a command: a row of the opcode map, the unused fields zero, operands that fit, and the
range checks. -/
theorem decode_ok {w : Word} {fmt : Format} {i : Instr} (hrow : opcodeRow (fieldsOf w) = some (fmt, some i))
    (hunused : fmt.unusedZero (fieldsOf w) = true) (hwf : i.wellFormed = true) : decode w = .ok i := by
  simp [decode, hrow, hunused, hwf]

@[simp] theorem xIndex_val (i : XReg) : xIndex i.val = some i := by simp [xIndex]

@[simp] theorem fIndex_val (i : FReg) : fIndex i.val = some i := by simp [fIndex]

@[simp] theorem pairIndex_val (i : Fin 2) : pairIndex i.val = some i := by
  have h := i.isLt
  simp [pairIndex, h]

@[simp] theorem channelOf_code (c : Channel) : channelOf c.code = some c := by cases c <;> rfl

@[simp] theorem selectorOf_code (c : FilterSel) : selectorOf c.code = some c := by cases c <;> rfl

end Sys2Proof
end

