-- ==== Sys2Proof/Laws/Filters.lean ====
section
/-! SUPPORT. The filter functions field by field. -/

namespace Sys2Proof.Machine

-- One theorem after another: their proofs do not each take a thread.
set_option Elab.async false

/-- The slots of a filled ring (R148). -/
theorem fillSlots_getElem (n : Nat) (v : Word) (buf : Vector Word 32) (j : Nat) (hj : j < 32) :
    (fillSlots n v buf)[j] = if j < n then v else buf[j] := by
  induction n with
  | zero => simp [fillSlots]
  | succ n ih =>
    rw [fillSlots, Vector.getElem_setIfInBounds, ih]
    split_ifs <;> first | rfl | omega

@[simp] theorem iirNew_valid (dp : Fin 32) (v : Word) : (iirNew dp v).valid = true := rfl
@[simp] theorem iirNew_dp (dp : Fin 32) (v : Word) : (iirNew dp v).dp = dp := rfl
@[simp] theorem iirNew_avg (dp : Fin 32) (v : Word) : (iirNew dp v).avg = v := rfl
@[simp] theorem iirPush_valid (u : Iir) (v : Word) : (iirPush u v).valid = u.valid := rfl
@[simp] theorem iirPush_dp (u : Iir) (v : Word) : (iirPush u v).dp = u.dp := rfl
@[simp] theorem firNew_valid (u : Fir) (dp : Fin 6) (v : Word) : (firNew u dp v).valid = true := rfl
@[simp] theorem firNew_dp (u : Fir) (dp : Fin 6) (v : Word) : (firNew u dp v).dp = dp := rfl
@[simp] theorem firNew_avg (u : Fir) (dp : Fin 6) (v : Word) : (firNew u dp v).avg = v := rfl
@[simp] theorem firNew_cur (u : Fir) (dp : Fin 6) (v : Word) : (firNew u dp v).cur = 0 := rfl
@[simp] theorem firPush_valid (u : Fir) (v : Word) : (firPush u v).valid = u.valid := rfl
@[simp] theorem firPush_dp (u : Fir) (v : Word) : (firPush u v).dp = u.dp := rfl

/-- A FIR window is 1 to 32 slots (R141). -/
theorem fir_window_le (dp : Fin 6) : 2 ^ dp.val ≤ 32 :=
  Nat.pow_le_pow_right (n := 2) (by decide) (Nat.le_of_lt_succ dp.isLt) |>.trans (by decide)

/-- The cursor moves on in the window (R148). -/
theorem nextSlot_val (cur : Fin 32) (dp : Fin 6) : (nextSlot cur dp).val = (cur.val + 1) % 2 ^ dp.val := by
  have h := fir_window_le dp
  have h' := Nat.mod_lt (cur.val + 1) (Nat.two_pow_pos dp.val)
  exact Nat.mod_eq_of_lt (by omega)

/-- A depth power is taken up to 31 by an IIR unit and up to 5 by a FIR unit (R141). -/
theorem iirDepth_eq_ok_iff (dp : Nat) (d : Fin 32) : iirDepth dp = .ok d ↔ d.val = dp := by
  have hd := d.isLt
  unfold iirDepth
  split
  · next h => simp [Fin.ext_iff, eq_comm]
  · next h => simp [Config.iirDpMax] at h ⊢; omega

theorem firDepth_eq_ok_iff (dp : Nat) (d : Fin 6) : firDepth dp = .ok d ↔ d.val = dp := by
  have hd := d.isLt
  unfold firDepth
  split
  · next h => simp [Fin.ext_iff, eq_comm]
  · next h => simp [Config.firDpMax] at h ⊢; omega

end Sys2Proof.Machine
end

