-- ==== Sys2Proof/Laws/State.lean ====
section
/-! SUPPORT. The field lemmas of the state updates: one per field per update, and the reads after writes. -/

namespace Sys2Proof.Machine

-- One theorem after another: their proofs do not each take a thread.
set_option Elab.async false

variable (s : State)

/-! ### `State.writeX` -/

@[simp] theorem State.writeX_x (i : XReg) (v : Word) : (s.writeX i v).x = s.x.set i.val v := rfl
@[simp] theorem State.writeX_f (i : XReg) (v : Word) : (s.writeX i v).f = s.f := rfl
@[simp] theorem State.writeX_status (i : XReg) (v : Word) : (s.writeX i v).status = s.status := rfl
@[simp] theorem State.writeX_fcause (i : XReg) (v : Word) : (s.writeX i v).fcause = s.fcause := rfl
@[simp] theorem State.writeX_fcmd (i : XReg) (v : Word) : (s.writeX i v).fcmd = s.fcmd := rfl
@[simp] theorem State.writeX_errcnt (i : XReg) (v : Word) : (s.writeX i v).errcnt = s.errcnt := rfl
@[simp] theorem State.writeX_iir (i : XReg) (v : Word) : (s.writeX i v).iir = s.iir := rfl
@[simp] theorem State.writeX_fir (i : XReg) (v : Word) : (s.writeX i v).fir = s.fir := rfl
@[simp] theorem State.writeX_ctx (i : XReg) (v : Word) : (s.writeX i v).ctx = s.ctx := rfl
@[simp] theorem State.writeX_params (i : XReg) (v : Word) : (s.writeX i v).params = s.params := rfl
@[simp] theorem State.writeX_pending (i : XReg) (v : Word) : (s.writeX i v).pending = s.pending := rfl
@[simp] theorem State.writeX_response (i : XReg) (v : Word) : (s.writeX i v).response = s.response := rfl

/-! ### `State.writeF` -/

@[simp] theorem State.writeF_x (i : FReg) (v : SoftFloat) : (s.writeF i v).x = s.x := rfl
@[simp] theorem State.writeF_f (i : FReg) (v : SoftFloat) : (s.writeF i v).f = s.f.set i.val v := rfl
@[simp] theorem State.writeF_status (i : FReg) (v : SoftFloat) : (s.writeF i v).status = s.status := rfl
@[simp] theorem State.writeF_fcause (i : FReg) (v : SoftFloat) : (s.writeF i v).fcause = s.fcause := rfl
@[simp] theorem State.writeF_fcmd (i : FReg) (v : SoftFloat) : (s.writeF i v).fcmd = s.fcmd := rfl
@[simp] theorem State.writeF_errcnt (i : FReg) (v : SoftFloat) : (s.writeF i v).errcnt = s.errcnt := rfl
@[simp] theorem State.writeF_iir (i : FReg) (v : SoftFloat) : (s.writeF i v).iir = s.iir := rfl
@[simp] theorem State.writeF_fir (i : FReg) (v : SoftFloat) : (s.writeF i v).fir = s.fir := rfl
@[simp] theorem State.writeF_ctx (i : FReg) (v : SoftFloat) : (s.writeF i v).ctx = s.ctx := rfl
@[simp] theorem State.writeF_params (i : FReg) (v : SoftFloat) : (s.writeF i v).params = s.params := rfl
@[simp] theorem State.writeF_pending (i : FReg) (v : SoftFloat) : (s.writeF i v).pending = s.pending := rfl
@[simp] theorem State.writeF_response (i : FReg) (v : SoftFloat) : (s.writeF i v).response = s.response := rfl

/-! ### `State.writeIir` -/

@[simp] theorem State.writeIir_x (u : UnitId) (v : Iir) : (s.writeIir u v).x = s.x := rfl
@[simp] theorem State.writeIir_f (u : UnitId) (v : Iir) : (s.writeIir u v).f = s.f := rfl
@[simp] theorem State.writeIir_status (u : UnitId) (v : Iir) : (s.writeIir u v).status = s.status := rfl
@[simp] theorem State.writeIir_fcause (u : UnitId) (v : Iir) : (s.writeIir u v).fcause = s.fcause := rfl
@[simp] theorem State.writeIir_fcmd (u : UnitId) (v : Iir) : (s.writeIir u v).fcmd = s.fcmd := rfl
@[simp] theorem State.writeIir_errcnt (u : UnitId) (v : Iir) : (s.writeIir u v).errcnt = s.errcnt := rfl
@[simp] theorem State.writeIir_iir (u : UnitId) (v : Iir) : (s.writeIir u v).iir = s.iir.set u.val v := rfl
@[simp] theorem State.writeIir_fir (u : UnitId) (v : Iir) : (s.writeIir u v).fir = s.fir := rfl
@[simp] theorem State.writeIir_ctx (u : UnitId) (v : Iir) : (s.writeIir u v).ctx = s.ctx := rfl
@[simp] theorem State.writeIir_params (u : UnitId) (v : Iir) : (s.writeIir u v).params = s.params := rfl
@[simp] theorem State.writeIir_pending (u : UnitId) (v : Iir) : (s.writeIir u v).pending = s.pending := rfl
@[simp] theorem State.writeIir_response (u : UnitId) (v : Iir) : (s.writeIir u v).response = s.response := rfl

/-! ### `State.writeFir` -/

@[simp] theorem State.writeFir_x (u : UnitId) (v : Fir) : (s.writeFir u v).x = s.x := rfl
@[simp] theorem State.writeFir_f (u : UnitId) (v : Fir) : (s.writeFir u v).f = s.f := rfl
@[simp] theorem State.writeFir_status (u : UnitId) (v : Fir) : (s.writeFir u v).status = s.status := rfl
@[simp] theorem State.writeFir_fcause (u : UnitId) (v : Fir) : (s.writeFir u v).fcause = s.fcause := rfl
@[simp] theorem State.writeFir_fcmd (u : UnitId) (v : Fir) : (s.writeFir u v).fcmd = s.fcmd := rfl
@[simp] theorem State.writeFir_errcnt (u : UnitId) (v : Fir) : (s.writeFir u v).errcnt = s.errcnt := rfl
@[simp] theorem State.writeFir_iir (u : UnitId) (v : Fir) : (s.writeFir u v).iir = s.iir := rfl
@[simp] theorem State.writeFir_fir (u : UnitId) (v : Fir) : (s.writeFir u v).fir = s.fir.set u.val v := rfl
@[simp] theorem State.writeFir_ctx (u : UnitId) (v : Fir) : (s.writeFir u v).ctx = s.ctx := rfl
@[simp] theorem State.writeFir_params (u : UnitId) (v : Fir) : (s.writeFir u v).params = s.params := rfl
@[simp] theorem State.writeFir_pending (u : UnitId) (v : Fir) : (s.writeFir u v).pending = s.pending := rfl
@[simp] theorem State.writeFir_response (u : UnitId) (v : Fir) : (s.writeFir u v).response = s.response := rfl

/-! ### `State.writeCtx` -/

@[simp] theorem State.writeCtx_x (k : CtxId) (v : Context) : (s.writeCtx k v).x = s.x := rfl
@[simp] theorem State.writeCtx_f (k : CtxId) (v : Context) : (s.writeCtx k v).f = s.f := rfl
@[simp] theorem State.writeCtx_status (k : CtxId) (v : Context) : (s.writeCtx k v).status = s.status := rfl
@[simp] theorem State.writeCtx_fcause (k : CtxId) (v : Context) : (s.writeCtx k v).fcause = s.fcause := rfl
@[simp] theorem State.writeCtx_fcmd (k : CtxId) (v : Context) : (s.writeCtx k v).fcmd = s.fcmd := rfl
@[simp] theorem State.writeCtx_errcnt (k : CtxId) (v : Context) : (s.writeCtx k v).errcnt = s.errcnt := rfl
@[simp] theorem State.writeCtx_iir (k : CtxId) (v : Context) : (s.writeCtx k v).iir = s.iir := rfl
@[simp] theorem State.writeCtx_fir (k : CtxId) (v : Context) : (s.writeCtx k v).fir = s.fir := rfl
@[simp] theorem State.writeCtx_ctx (k : CtxId) (v : Context) : (s.writeCtx k v).ctx = s.ctx.set k.val v := rfl
@[simp] theorem State.writeCtx_params (k : CtxId) (v : Context) : (s.writeCtx k v).params = s.params := rfl
@[simp] theorem State.writeCtx_pending (k : CtxId) (v : Context) : (s.writeCtx k v).pending = s.pending := rfl
@[simp] theorem State.writeCtx_response (k : CtxId) (v : Context) : (s.writeCtx k v).response = s.response := rfl

/-! ### `State.respond` -/

@[simp] theorem State.respond_x (r : Response) : (s.respond r).x = s.x := rfl
@[simp] theorem State.respond_f (r : Response) : (s.respond r).f = s.f := rfl
@[simp] theorem State.respond_status (r : Response) : (s.respond r).status = s.status := rfl
@[simp] theorem State.respond_fcause (r : Response) : (s.respond r).fcause = s.fcause := rfl
@[simp] theorem State.respond_fcmd (r : Response) : (s.respond r).fcmd = s.fcmd := rfl
@[simp] theorem State.respond_errcnt (r : Response) : (s.respond r).errcnt = s.errcnt := rfl
@[simp] theorem State.respond_iir (r : Response) : (s.respond r).iir = s.iir := rfl
@[simp] theorem State.respond_fir (r : Response) : (s.respond r).fir = s.fir := rfl
@[simp] theorem State.respond_ctx (r : Response) : (s.respond r).ctx = s.ctx := rfl
@[simp] theorem State.respond_params (r : Response) : (s.respond r).params = s.params := rfl
@[simp] theorem State.respond_pending (r : Response) : (s.respond r).pending = s.pending := rfl
@[simp] theorem State.respond_response (r : Response) : (s.respond r).response = some r := rfl

/-! ### `State.raise` -/

@[simp] theorem State.raise_x (c : Cause) (w : Word) : (s.raise c w).x = s.x := rfl
@[simp] theorem State.raise_f (c : Cause) (w : Word) : (s.raise c w).f = s.f := rfl
@[simp] theorem State.raise_status (c : Cause) (w : Word) : (s.raise c w).status = stickySet s.status c := rfl
@[simp] theorem State.raise_fcause (c : Cause) (w : Word) : (s.raise c w).fcause = BitVec.ofNat 4 c.code := rfl
@[simp] theorem State.raise_fcmd (c : Cause) (w : Word) : (s.raise c w).fcmd = w := rfl
@[simp] theorem State.raise_errcnt (c : Cause) (w : Word) : (s.raise c w).errcnt = countFault s.errcnt := rfl
@[simp] theorem State.raise_iir (c : Cause) (w : Word) : (s.raise c w).iir = s.iir := rfl
@[simp] theorem State.raise_fir (c : Cause) (w : Word) : (s.raise c w).fir = s.fir := rfl
@[simp] theorem State.raise_ctx (c : Cause) (w : Word) : (s.raise c w).ctx = s.ctx := rfl
@[simp] theorem State.raise_params (c : Cause) (w : Word) : (s.raise c w).params = s.params := rfl
@[simp] theorem State.raise_pending (c : Cause) (w : Word) : (s.raise c w).pending = s.pending := rfl
@[simp] theorem State.raise_response (c : Cause) (w : Word) : (s.raise c w).response = some (.fault c) := rfl

/-! ### `State.clearFaults` -/

@[simp] theorem State.clearFaults_x : s.clearFaults.x = s.x := rfl
@[simp] theorem State.clearFaults_f : s.clearFaults.f = s.f := rfl
@[simp] theorem State.clearFaults_status : s.clearFaults.status = 0 := rfl
@[simp] theorem State.clearFaults_fcause : s.clearFaults.fcause = 0 := rfl
@[simp] theorem State.clearFaults_fcmd : s.clearFaults.fcmd = 0 := rfl
@[simp] theorem State.clearFaults_errcnt : s.clearFaults.errcnt = s.errcnt := rfl
@[simp] theorem State.clearFaults_iir : s.clearFaults.iir = s.iir := rfl
@[simp] theorem State.clearFaults_fir : s.clearFaults.fir = s.fir := rfl
@[simp] theorem State.clearFaults_ctx : s.clearFaults.ctx = s.ctx := rfl
@[simp] theorem State.clearFaults_params : s.clearFaults.params = s.params := rfl
@[simp] theorem State.clearFaults_pending : s.clearFaults.pending = s.pending := rfl
@[simp] theorem State.clearFaults_response : s.clearFaults.response = s.response := rfl

/-! ### Reads after writes -/

theorem State.readX_writeX (i j : XReg) (v : Word) : (s.writeX i v).readX j = if i = j then v else s.readX j := by
  simp only [State.readX, State.writeX, Vector.getElem_set, Fin.ext_iff]

@[simp] theorem State.readX_writeX_same (i : XReg) (v : Word) : (s.writeX i v).readX i = v := by
  simp [State.readX_writeX]

theorem State.readX_writeX_other (i j : XReg) (v : Word) (h : i ≠ j) : (s.writeX i v).readX j = s.readX j := by
  simp [State.readX_writeX, h]

@[simp] theorem State.readX_writeF (i : FReg) (v : SoftFloat) (j : XReg) : (s.writeF i v).readX j = s.readX j := rfl
@[simp] theorem State.readX_writeIir (u : UnitId) (v : Iir) (j : XReg) : (s.writeIir u v).readX j = s.readX j := rfl
@[simp] theorem State.readX_writeFir (u : UnitId) (v : Fir) (j : XReg) : (s.writeFir u v).readX j = s.readX j := rfl
@[simp] theorem State.readX_writeCtx (k : CtxId) (v : Context) (j : XReg) : (s.writeCtx k v).readX j = s.readX j := rfl
@[simp] theorem State.readX_respond (r : Response) (j : XReg) : (s.respond r).readX j = s.readX j := rfl
@[simp] theorem State.readX_raise (c : Cause) (w : Word) (j : XReg) : (s.raise c w).readX j = s.readX j := rfl
@[simp] theorem State.readX_clearFaults (j : XReg) : s.clearFaults.readX j = s.readX j := rfl

theorem State.readF_writeF (i j : FReg) (v : SoftFloat) : (s.writeF i v).readF j = if i = j then v else s.readF j := by
  simp only [State.readF, State.writeF, Vector.getElem_set, Fin.ext_iff]

@[simp] theorem State.readF_writeF_same (i : FReg) (v : SoftFloat) : (s.writeF i v).readF i = v := by
  simp [State.readF_writeF]

theorem State.readF_writeF_other (i j : FReg) (v : SoftFloat) (h : i ≠ j) : (s.writeF i v).readF j = s.readF j := by
  simp [State.readF_writeF, h]

@[simp] theorem State.readF_writeX (i : XReg) (v : Word) (j : FReg) : (s.writeX i v).readF j = s.readF j := rfl
@[simp] theorem State.readF_writeIir (u : UnitId) (v : Iir) (j : FReg) : (s.writeIir u v).readF j = s.readF j := rfl
@[simp] theorem State.readF_writeFir (u : UnitId) (v : Fir) (j : FReg) : (s.writeFir u v).readF j = s.readF j := rfl
@[simp] theorem State.readF_writeCtx (k : CtxId) (v : Context) (j : FReg) : (s.writeCtx k v).readF j = s.readF j := rfl
@[simp] theorem State.readF_respond (r : Response) (j : FReg) : (s.respond r).readF j = s.readF j := rfl
@[simp] theorem State.readF_raise (c : Cause) (w : Word) (j : FReg) : (s.raise c w).readF j = s.readF j := rfl
@[simp] theorem State.readF_clearFaults (j : FReg) : s.clearFaults.readF j = s.readF j := rfl

theorem State.readIir_writeIir (i j : UnitId) (v : Iir) : (s.writeIir i v).readIir j = if i = j then v else s.readIir j := by
  simp only [State.readIir, State.writeIir, Vector.getElem_set, Fin.ext_iff]

@[simp] theorem State.readIir_writeIir_same (i : UnitId) (v : Iir) : (s.writeIir i v).readIir i = v := by
  simp [State.readIir_writeIir]

theorem State.readIir_writeIir_other (i j : UnitId) (v : Iir) (h : i ≠ j) : (s.writeIir i v).readIir j = s.readIir j := by
  simp [State.readIir_writeIir, h]

@[simp] theorem State.readIir_writeX (i : XReg) (v : Word) (j : UnitId) : (s.writeX i v).readIir j = s.readIir j := rfl
@[simp] theorem State.readIir_writeF (i : FReg) (v : SoftFloat) (j : UnitId) : (s.writeF i v).readIir j = s.readIir j := rfl
@[simp] theorem State.readIir_writeFir (u : UnitId) (v : Fir) (j : UnitId) : (s.writeFir u v).readIir j = s.readIir j := rfl
@[simp] theorem State.readIir_writeCtx (k : CtxId) (v : Context) (j : UnitId) : (s.writeCtx k v).readIir j = s.readIir j := rfl
@[simp] theorem State.readIir_respond (r : Response) (j : UnitId) : (s.respond r).readIir j = s.readIir j := rfl
@[simp] theorem State.readIir_raise (c : Cause) (w : Word) (j : UnitId) : (s.raise c w).readIir j = s.readIir j := rfl
@[simp] theorem State.readIir_clearFaults (j : UnitId) : s.clearFaults.readIir j = s.readIir j := rfl

theorem State.readFir_writeFir (i j : UnitId) (v : Fir) : (s.writeFir i v).readFir j = if i = j then v else s.readFir j := by
  simp only [State.readFir, State.writeFir, Vector.getElem_set, Fin.ext_iff]

@[simp] theorem State.readFir_writeFir_same (i : UnitId) (v : Fir) : (s.writeFir i v).readFir i = v := by
  simp [State.readFir_writeFir]

theorem State.readFir_writeFir_other (i j : UnitId) (v : Fir) (h : i ≠ j) : (s.writeFir i v).readFir j = s.readFir j := by
  simp [State.readFir_writeFir, h]

@[simp] theorem State.readFir_writeX (i : XReg) (v : Word) (j : UnitId) : (s.writeX i v).readFir j = s.readFir j := rfl
@[simp] theorem State.readFir_writeF (i : FReg) (v : SoftFloat) (j : UnitId) : (s.writeF i v).readFir j = s.readFir j := rfl
@[simp] theorem State.readFir_writeIir (u : UnitId) (v : Iir) (j : UnitId) : (s.writeIir u v).readFir j = s.readFir j := rfl
@[simp] theorem State.readFir_writeCtx (k : CtxId) (v : Context) (j : UnitId) : (s.writeCtx k v).readFir j = s.readFir j := rfl
@[simp] theorem State.readFir_respond (r : Response) (j : UnitId) : (s.respond r).readFir j = s.readFir j := rfl
@[simp] theorem State.readFir_raise (c : Cause) (w : Word) (j : UnitId) : (s.raise c w).readFir j = s.readFir j := rfl
@[simp] theorem State.readFir_clearFaults (j : UnitId) : s.clearFaults.readFir j = s.readFir j := rfl

theorem State.readCtx_writeCtx (i j : CtxId) (v : Context) : (s.writeCtx i v).readCtx j = if i = j then v else s.readCtx j := by
  simp only [State.readCtx, State.writeCtx, Vector.getElem_set, Fin.ext_iff]

@[simp] theorem State.readCtx_writeCtx_same (i : CtxId) (v : Context) : (s.writeCtx i v).readCtx i = v := by
  simp [State.readCtx_writeCtx]

theorem State.readCtx_writeCtx_other (i j : CtxId) (v : Context) (h : i ≠ j) : (s.writeCtx i v).readCtx j = s.readCtx j := by
  simp [State.readCtx_writeCtx, h]

@[simp] theorem State.readCtx_writeX (i : XReg) (v : Word) (j : CtxId) : (s.writeX i v).readCtx j = s.readCtx j := rfl
@[simp] theorem State.readCtx_writeF (i : FReg) (v : SoftFloat) (j : CtxId) : (s.writeF i v).readCtx j = s.readCtx j := rfl
@[simp] theorem State.readCtx_writeIir (u : UnitId) (v : Iir) (j : CtxId) : (s.writeIir u v).readCtx j = s.readCtx j := rfl
@[simp] theorem State.readCtx_writeFir (u : UnitId) (v : Fir) (j : CtxId) : (s.writeFir u v).readCtx j = s.readCtx j := rfl
@[simp] theorem State.readCtx_respond (r : Response) (j : CtxId) : (s.respond r).readCtx j = s.readCtx j := rfl
@[simp] theorem State.readCtx_raise (c : Cause) (w : Word) (j : CtxId) : (s.raise c w).readCtx j = s.readCtx j := rfl
@[simp] theorem State.readCtx_clearFaults (j : CtxId) : s.clearFaults.readCtx j = s.readCtx j := rfl

end Sys2Proof.Machine
end

