-- ==== Sys2Proof/Laws/Ops.lean ====
section
/-! SUPPORT. What a command can end in: the inversion of `finish`, and `exec` as `finish` of one effect. -/

namespace Sys2Proof.Machine

-- One theorem after another: their proofs do not each take a thread.
set_option Elab.async false

/-- A command ends in one next state: its effect with the response `ok`, or the fault record. -/
theorem State.finish_next_iff (s : State) (i : Instr) (e : Except Cause State) (t : State) :
    s.finish i e = .next t ↔
      (∃ u, e = .ok u ∧ t = u.respond .ok) ∨ (∃ c, e = .error c ∧ t = s.raise c (encode i)) := by
  cases e <;> simp [State.finish, eq_comm]

@[simp] theorem State.finish_ok (s : State) (i : Instr) (u : State) :
    s.finish i (.ok u) = .next (u.respond .ok) := rfl

@[simp] theorem State.finish_error (s : State) (i : Instr) (c : Cause) :
    s.finish i (.error c) = .next (s.raise c (encode i)) := rfl

/-- A command never stops the block. -/
theorem State.finish_total (s : State) (i : Instr) (e : Except Cause State) : ∃ t, s.finish i e = .next t := by
  cases e <;> simp

@[simp] theorem require_true (c : Cause) : require true c = .ok () := rfl

@[simp] theorem require_false (c : Cause) : require false c = .error c := rfl

theorem require_eq_ok_iff (b : Bool) (c : Cause) : require b c = .ok () ↔ b = true := by
  cases b <;> simp

/-- The checks of a command's rule: what follows a check runs only if it holds. -/
theorem require_bind_eq_ok_iff {α : Type} (b : Bool) (c : Cause) (next : Except Cause α) (v : α) :
    ((require b c).bind fun _ => next) = .ok v ↔ b = true ∧ next = .ok v := by
  cases b <;> simp [Except.bind]

/-- Peeling one step off a computation of a command. -/
theorem except_bind_eq_ok_iff {α β : Type} (m : Except Cause α) (next : α → Except Cause β) (v : β) :
    m.bind next = .ok v ↔ ∃ a, m = .ok a ∧ next a = .ok v := by
  cases m <;> simp [Except.bind]

theorem except_map_eq_ok_iff {α β : Type} (m : Except Cause α) (g : α → β) (v : β) :
    m.map g = .ok v ↔ ∃ a, m = .ok a ∧ g a = v := by
  cases m <;> simp [Except.map]

/-- Every command is one effect, finished: the one fact about `exec` that a claim over all commands needs. -/
theorem exec_eq_finish (i : Instr) (s : State) : ∃ e : Except Cause State, exec i s = s.finish i e := by
  cases i <;>
    simp only [exec, execNop, execFclr, execXli, execXlih, execLdb, execFadd, execFsub, execFmul, execFdiv,
    execFmuli, execFfrom, execFmov, execFmant, execFexp, execFsign, execMsb, execLsb, execIirnew, execIirpush,
    execIiravg, execFirnew, execFirpush, execFiravg, execCext, execKsel, execKset, execCinit, execCget,
    execAdcext, execComp, execPfeed, execPshal, execPdeep, execPsnap, execAdiff, execPreset] <;>
    exact ⟨_, rfl⟩

/-- Every command ends in a next state. -/
theorem exec_next (i : Instr) (s : State) : ∃ t, exec i s = .next t := by
  obtain ⟨e, h⟩ := exec_eq_finish i s
  rw [h]; exact s.finish_total i e

end Sys2Proof.Machine
end

