-- ==== Sys2Proof/Laws/PerInstr.lean ====
section
/-! SUPPORT. The statement families made per command: one lemma per constructor of Instr. -/

namespace Sys2Proof.Laws

-- One theorem after another: their proofs do not each take a thread.
set_option Elab.async false

/-- The five fields of a command's encoding are the command's fields (R70, R74, R75): no operand loses a bit and the
fields its format does not use are zero in the word. -/
def EncodedFields.Statement (i : Instr) : Prop := fieldsOf (encode i) = i.fields

theorem channel_code_lt (c : Channel) : c.code < 2 ^ 4 := by cases c <;> decide

theorem selector_code_lt (c : FilterSel) : c.code < 2 ^ 4 := by cases c <;> decide

theorem EncodedFields.nop : EncodedFields.Statement (.nop) := by
  refine fieldsOf_wordOf _ ?_
  simp only [Instr.fields, Fields.InRange]
  omega

theorem EncodedFields.fclr : EncodedFields.Statement (.fclr) := by
  refine fieldsOf_wordOf _ ?_
  simp only [Instr.fields, Fields.InRange]
  omega

theorem EncodedFields.xli (xd : XReg) (imm16 : BitVec 16) : EncodedFields.Statement (.xli xd imm16) := by
  refine fieldsOf_wordOf _ ?_
  simp only [Instr.fields, Fields.InRange]
  omega

theorem EncodedFields.xlih (xd : XReg) (imm16 : BitVec 16) : EncodedFields.Statement (.xlih xd imm16) := by
  refine fieldsOf_wordOf _ ?_
  simp only [Instr.fields, Fields.InRange]
  omega

theorem EncodedFields.ldb (k : CtxId) (idx : BitVec 8) (byte : Byte) : EncodedFields.Statement (.ldb k idx byte) := by
  refine fieldsOf_wordOf _ ?_
  simp only [Instr.fields, Fields.InRange]
  omega

theorem EncodedFields.fadd (fd fa fb : FReg) : EncodedFields.Statement (.fadd fd fa fb) := by
  refine fieldsOf_wordOf _ ?_
  simp only [Instr.fields, Fields.InRange]
  omega

theorem EncodedFields.fsub (fd fa fb : FReg) : EncodedFields.Statement (.fsub fd fa fb) := by
  refine fieldsOf_wordOf _ ?_
  simp only [Instr.fields, Fields.InRange]
  omega

theorem EncodedFields.fmul (fd fa fb : FReg) : EncodedFields.Statement (.fmul fd fa fb) := by
  refine fieldsOf_wordOf _ ?_
  simp only [Instr.fields, Fields.InRange]
  omega

theorem EncodedFields.fdiv (fd fa fb : FReg) : EncodedFields.Statement (.fdiv fd fa fb) := by
  refine fieldsOf_wordOf _ ?_
  simp only [Instr.fields, Fields.InRange]
  omega

theorem EncodedFields.fmuli (fd fa : FReg) (xb : XReg) : EncodedFields.Statement (.fmuli fd fa xb) := by
  refine fieldsOf_wordOf _ ?_
  simp only [Instr.fields, Fields.InRange]
  omega

theorem EncodedFields.ffrom (fd : FReg) (xa xb : XReg) : EncodedFields.Statement (.ffrom fd xa xb) := by
  refine fieldsOf_wordOf _ ?_
  simp only [Instr.fields, Fields.InRange]
  omega

theorem EncodedFields.fmov (fd fa : FReg) : EncodedFields.Statement (.fmov fd fa) := by
  refine fieldsOf_wordOf _ ?_
  simp only [Instr.fields, Fields.InRange]
  omega

theorem EncodedFields.fmant (xd : XReg) (fa : FReg) : EncodedFields.Statement (.fmant xd fa) := by
  refine fieldsOf_wordOf _ ?_
  simp only [Instr.fields, Fields.InRange]
  omega

theorem EncodedFields.fexp (xd : XReg) (fa : FReg) : EncodedFields.Statement (.fexp xd fa) := by
  refine fieldsOf_wordOf _ ?_
  simp only [Instr.fields, Fields.InRange]
  omega

theorem EncodedFields.fsign (xd : XReg) (fa : FReg) : EncodedFields.Statement (.fsign xd fa) := by
  refine fieldsOf_wordOf _ ?_
  simp only [Instr.fields, Fields.InRange]
  omega

theorem EncodedFields.msb (xd xa : XReg) : EncodedFields.Statement (.msb xd xa) := by
  refine fieldsOf_wordOf _ ?_
  simp only [Instr.fields, Fields.InRange]
  omega

theorem EncodedFields.lsb (xd xa : XReg) : EncodedFields.Statement (.lsb xd xa) := by
  refine fieldsOf_wordOf _ ?_
  simp only [Instr.fields, Fields.InRange]
  omega

theorem EncodedFields.iirnew (u : UnitId) (xa : XReg) (dp : BitVec 12) : EncodedFields.Statement (.iirnew u xa dp) := by
  refine fieldsOf_wordOf _ ?_
  simp only [Instr.fields, Fields.InRange]
  omega

theorem EncodedFields.iirpush (u : UnitId) (xa : XReg) : EncodedFields.Statement (.iirpush u xa) := by
  refine fieldsOf_wordOf _ ?_
  simp only [Instr.fields, Fields.InRange]
  omega

theorem EncodedFields.iiravg (xd : XReg) (u : UnitId) : EncodedFields.Statement (.iiravg xd u) := by
  refine fieldsOf_wordOf _ ?_
  simp only [Instr.fields, Fields.InRange]
  omega

theorem EncodedFields.firnew (u : UnitId) (xa : XReg) (dp : BitVec 12) : EncodedFields.Statement (.firnew u xa dp) := by
  refine fieldsOf_wordOf _ ?_
  simp only [Instr.fields, Fields.InRange]
  omega

theorem EncodedFields.firpush (u : UnitId) (xa : XReg) : EncodedFields.Statement (.firpush u xa) := by
  refine fieldsOf_wordOf _ ?_
  simp only [Instr.fields, Fields.InRange]
  omega

theorem EncodedFields.firavg (xd : XReg) (u : UnitId) : EncodedFields.Statement (.firavg xd u) := by
  refine fieldsOf_wordOf _ ?_
  simp only [Instr.fields, Fields.InRange]
  omega

theorem EncodedFields.cext (xd : XReg) (k : CtxId) (i : BitVec 4) : EncodedFields.Statement (.cext xd k i) := by
  refine fieldsOf_wordOf _ ?_
  simp only [Instr.fields, Fields.InRange]
  omega

theorem EncodedFields.ksel (k : CtxId) : EncodedFields.Statement (.ksel k) := by
  refine fieldsOf_wordOf _ ?_
  simp only [Instr.fields, Fields.InRange]
  omega

theorem EncodedFields.kset (k : CtxId) (fa : FReg) (ch : Channel) : EncodedFields.Statement (.kset k fa ch) := by
  refine fieldsOf_wordOf _ ?_
  have hc := channel_code_lt ch
  simp only [Instr.fields, Fields.InRange]
  omega

theorem EncodedFields.cinit (k : CtxId) : EncodedFields.Statement (.cinit k) := by
  refine fieldsOf_wordOf _ ?_
  simp only [Instr.fields, Fields.InRange]
  omega

theorem EncodedFields.cget (fd : FReg) (k : CtxId) (i : BitVec 4) : EncodedFields.Statement (.cget fd k i) := by
  refine fieldsOf_wordOf _ ?_
  simp only [Instr.fields, Fields.InRange]
  omega

theorem EncodedFields.adcext (xd : XReg) (k : CtxId) (ch : Channel) : EncodedFields.Statement (.adcext xd k ch) := by
  refine fieldsOf_wordOf _ ?_
  have hc := channel_code_lt ch
  simp only [Instr.fields, Fields.InRange]
  omega

theorem EncodedFields.comp (k : CtxId) : EncodedFields.Statement (.comp k) := by
  refine fieldsOf_wordOf _ ?_
  simp only [Instr.fields, Fields.InRange]
  omega

theorem EncodedFields.pfeed (k : CtxId) : EncodedFields.Statement (.pfeed k) := by
  refine fieldsOf_wordOf _ ?_
  simp only [Instr.fields, Fields.InRange]
  omega

theorem EncodedFields.pshal (fd : FReg) (k : CtxId) : EncodedFields.Statement (.pshal fd k) := by
  refine fieldsOf_wordOf _ ?_
  simp only [Instr.fields, Fields.InRange]
  omega

theorem EncodedFields.pdeep (fd : FReg) (k : CtxId) : EncodedFields.Statement (.pdeep fd k) := by
  refine fieldsOf_wordOf _ ?_
  simp only [Instr.fields, Fields.InRange]
  omega

theorem EncodedFields.psnap (xd : XReg) (k : CtxId) (sel : FilterSel) : EncodedFields.Statement (.psnap xd k sel) := by
  refine fieldsOf_wordOf _ ?_
  have hc := selector_code_lt sel
  simp only [Instr.fields, Fields.InRange]
  omega

theorem EncodedFields.adiff (fd : FReg) (kt ks : CtxId) : EncodedFields.Statement (.adiff fd kt ks) := by
  refine fieldsOf_wordOf _ ?_
  simp only [Instr.fields, Fields.InRange]
  omega

theorem EncodedFields.preset (k : CtxId) : EncodedFields.Statement (.preset k) := by
  refine fieldsOf_wordOf _ ?_
  simp only [Instr.fields, Fields.InRange]
  omega

end Sys2Proof.Laws
end

