-- ==== Sys2Proof/Laws/SoftFloat.lean ====
section
/-! SUPPORT. What the SoftFloat functions answer: `normalize` once, and the operations as calls of it. -/

namespace Sys2Proof.Machine

-- One theorem after another: their proofs do not each take a thread.
set_option Elab.async false

@[simp] theorem normalize_zero (e : Int) : normalize 0 e = .ok SoftFloat.zero := rfl

/-- The aligned magnitude has its top bit at bit 30 (R101). -/
theorem alignMagnitude_bounds (mag : Nat) (h : mag ≠ 0) :
    2 ^ 30 ≤ alignMagnitude mag (msbIndex mag) ∧ alignMagnitude mag (msbIndex mag) ≤ 2 ^ 31 - 1 := by
  obtain ⟨lo, hi⟩ := msbIndex_bounds mag h
  generalize msbIndex mag = i at *
  unfold alignMagnitude
  split
  · next hle =>
    have e₁ : 2 ^ i * 2 ^ (30 - i) = 2 ^ 30 := by rw [← pow_add]; congr 1; omega
    have e₂ : 2 ^ (i + 1) * 2 ^ (30 - i) = 2 ^ 31 := by rw [← pow_add]; congr 1; omega
    have h₁ := Nat.mul_le_mul_right (2 ^ (30 - i)) lo
    have h₂ := Nat.mul_lt_mul_of_pos_right hi (Nat.two_pow_pos (30 - i))
    omega
  · next hgt =>
    have e₁ : 2 ^ i = 2 ^ 30 * 2 ^ (i - 30) := by rw [← pow_add]; congr 1; omega
    have e₂ : 2 ^ (i + 1) = 2 ^ 31 * 2 ^ (i - 30) := by rw [← pow_add]; congr 1; omega
    rw [e₁] at lo
    rw [e₂] at hi
    have h₁ := (Nat.le_div_iff_mul_le (Nat.two_pow_pos (i - 30))).mpr lo
    have h₂ := (Nat.div_lt_iff_lt_mul (Nat.two_pow_pos (i - 30))).mpr hi
    omega

/-- What `normalize` answers for a result other than zero: the aligned magnitude with the sign put back, or
`ExponentRange` if the adjusted exponent does not fit (R101, R103). -/
theorem normalize_nonzero (r e : Int) (h : r ≠ 0) :
    (∃ q, normalize r e = .ok q ∧
        q.mant.toInt = sgn r * (alignMagnitude r.natAbs (msbIndex r.natAbs) : Int) ∧
        q.exp.toInt = e + (msbIndex r.natAbs : Int) - 30) ∨
      (normalize r e = .error .exponentRange ∧
        ¬(-2147483648 ≤ e + (msbIndex r.natAbs : Int) - 30 ∧ e + (msbIndex r.natAbs : Int) - 30 ≤ 2147483647)) := by
  have hb := alignMagnitude_bounds r.natAbs (by omega)
  by_cases hfit : fitsInt32 (e + (msbIndex r.natAbs : Int) - 30) = true
  · refine .inl ⟨_, (by rw [normalize, if_neg h]; exact if_pos hfit), int32_toInt _ ?_,
      int32_toInt _ ((fitsInt32_iff _).mp hfit)⟩
    rcases sgn_cases r with ⟨hs, _⟩ | ⟨hs, _⟩ <;> rw [hs] <;> omega
  · refine .inr ⟨by simp only [normalize, if_neg h, if_neg hfit], ?_⟩
    rwa [fitsInt32_iff] at hfit

/-- `normalize` raises no other cause (R103). -/
theorem normalize_error (r e : Int) (c : Cause) (h : normalize r e = .error c) : c = .exponentRange := by
  unfold normalize at h
  split at h
  · cases h
  · simp only at h
    split at h
    · cases h
    · cases h; rfl

/-- Every SoftFloat that `normalize` returns is normalized (R21, R101). -/
theorem normalize_normalized (r e : Int) (q : SoftFloat) (h : normalize r e = .ok q) : q.Normalized := by
  by_cases hr : r = 0
  · subst hr; simp only [normalize_zero, Except.ok.injEq] at h; exact .inl h.symm
  · rcases normalize_nonzero r e hr with ⟨q', hq, hm, -⟩ | ⟨herr, -⟩
    · obtain rfl : q' = q := by simpa using hq.symm.trans h
      have hb := alignMagnitude_bounds r.natAbs (by omega)
      refine .inr ?_
      rw [hm, Int.natAbs_mul, Int.natAbs_natCast]
      have hs : (sgn r).natAbs = 1 := by rcases sgn_cases r with ⟨hs, _⟩ | ⟨hs, _⟩ <;> rw [hs] <;> rfl
      rw [hs, one_mul]; exact hb
    · rw [herr] at h; cases h

/-- A normalized mantissa fits with room for its sign (R21). -/
theorem SoftFloat.Normalized.natAbs_le {a : SoftFloat} (h : a.Normalized) : a.mant.toInt.natAbs ≤ 2 ^ 31 - 1 := by
  rcases h with rfl | h
  · decide
  · exact h.2

/-- A normalized mantissa of 0 is `ZERO` (R21). -/
theorem SoftFloat.Normalized.eq_zero {a : SoftFloat} (h : a.Normalized) (hm : a.mant = 0) : a = SoftFloat.zero := by
  rcases h with h | h
  · exact h
  · rw [hm] at h; simp at h

end Sys2Proof.Machine
end

