-- ==== Sys2Proof/Laws/Step.lean ====
section
/-! SUPPORT. What one step can do: the inversion lemma of `step`, and the frame of a port write. -/

namespace Sys2Proof.Machine

-- One theorem after another: their proofs do not each take a thread.
set_option Elab.async false

/-- No number past the port space is mapped (R51). -/
theorem portMap_outside (n : Nat) (h : 0x300 ≤ n) : portMap n = none := by
  unfold portMap
  rw [if_neg (by omega), if_neg (by omega), if_neg (by omega)]

theorem portMap_eq_cmd_below : ∀ n : Fin 0x300, portMap n.val = some .cmd ↔ n.val = 0 := by decide +kernel

/-- Register number 0 is `CMD` and no other number is (R53). -/
theorem portMap_eq_cmd_iff (n : Nat) : portMap n = some .cmd ↔ n = 0 := by
  by_cases h : n < 0x300
  · exact portMap_eq_cmd_below ⟨n, h⟩
  · rw [portMap_outside n (by omega)]
    constructor
    · intro h'; cases h'
    · rintro rfl; omega

/-- Everything a step can do: stay idle, execute a command word, store at the port, read at the port, or be reset (R17,
R61). -/
theorem step_cases (s : State) :
    (s.pending = [] ∧ step s = .next s) ∨
    (∃ w rest, s.pending = .write 0 w :: rest ∧ step s = issue w { s with pending := rest }) ∨
    (∃ r v rest, s.pending = .write r v :: rest ∧ r ≠ 0 ∧
      step s = .next ((State.portWrite { s with pending := rest } r v).respond .ok)) ∨
    (∃ r rest, s.pending = .read r :: rest ∧
      step s = .next (State.respond { s with pending := rest }
        (.value (State.portRead { s with pending := rest } r)))) ∨
    (∃ rest, s.pending = .reset :: rest ∧ step s = .next (State.afterReset { s with pending := rest })) := by
  unfold step State.accept
  match h : s.pending with
  | [] => simp
  | .write r v :: rest =>
    by_cases hr : portMap r = some .cmd
    · obtain rfl := (portMap_eq_cmd_iff r).mp hr
      refine .inr (.inl ⟨v, rest, rfl, ?_⟩)
      simp [hr]
    · refine .inr (.inr (.inl ⟨r, v, rest, rfl, fun h0 => hr ((portMap_eq_cmd_iff r).mpr h0), ?_⟩))
      simp [hr]
  | .read r :: rest => exact .inr (.inr (.inr (.inl ⟨r, rest, rfl, rfl⟩)))
  | .reset :: rest => exact .inr (.inr (.inr (.inr ⟨rest, rfl, rfl⟩)))

/-- A command word either executes or raises `IllegalCommand` (R17, R76). -/
theorem issue_cases (w : Word) (s : State) :
    (∃ i, decode w = .ok i ∧ issue w s = exec i s) ∨
      (∃ e, decode w = .error e ∧ issue w s = .next (s.raise .illegalCommand w)) := by
  unfold issue
  cases h : decode w with
  | ok i => exact .inl ⟨i, rfl, rfl⟩
  | error e => exact .inr ⟨e, rfl, rfl⟩

/-- A port write stores nothing, or writes one of the read-write places or `STATUS` (R52, R53, R55). -/
theorem portWrite_cases (s : State) (r : Nat) (v : Word) :
    s.portWrite r v = s ∨ s.portWrite r v = { s with status := stickyClear s.status v } ∨
      (∃ i, s.portWrite r v = s.writeX i v) ∨
      ∃ k, (s.portWrite r v = s.writeCtx k { s.readCtx k with mcfg := v &&& mcfgMask }) ∨
        (s.portWrite r v = s.writeCtx k { s.readCtx k with fcfg := v &&& fcfgMask }) ∨
        (∃ i : Fin 18, s.portWrite r v =
          s.writeCtx k { s.readCtx k with coef := (s.readCtx k).coef.set i.val (lowByte v) }) ∨
        (∃ i : Fin 3, s.portWrite r v =
          s.writeCtx k { s.readCtx k with rawt := (s.readCtx k).rawt.set i.val (lowByte v) }) ∨
        (∃ i : Fin 3, s.portWrite r v =
          s.writeCtx k { s.readCtx k with rawp := (s.readCtx k).rawp.set i.val (lowByte v) }) := by
  unfold State.portWrite
  cases portMap r with
  | none => exact .inl rfl
  | some reg =>
    cases reg with
    | status => exact .inr (.inl rfl)
    | x i => exact .inr (.inr (.inl ⟨i, rfl⟩))
    | mcfg k => exact .inr (.inr (.inr ⟨k, .inl rfl⟩))
    | fcfg k => exact .inr (.inr (.inr ⟨k, .inr (.inl rfl)⟩))
    | coef k i => exact .inr (.inr (.inr ⟨k, .inr (.inr (.inl ⟨i, rfl⟩))⟩))
    | rawt k i => exact .inr (.inr (.inr ⟨k, .inr (.inr (.inr (.inl ⟨i, rfl⟩)))⟩))
    | rawp k i => exact .inr (.inr (.inr ⟨k, .inr (.inr (.inr (.inr ⟨i, rfl⟩)))⟩))
    | _ => exact .inl rfl

end Sys2Proof.Machine
end

