-- ==== Sys2Proof/Tests/Slice0.lean ====
section
/-! SUPPORT. The model's own tests. Expected values are the spec's: the examples of its rules and the vectors of
95_test_vectors.md. After them, for every statement with hypotheses, a state and operands that meet them. -/

namespace Sys2Proof.Tests

open Sys2Proof.Machine

-- One theorem after another: their evaluations in the kernel do not each take a thread.
set_option Elab.async false

/-! ### Well-formedness: each check refuses a term (R75, R76) -/

theorem test_wellFormed_ldb : (Instr.ldb 0 24 0).wellFormed = false ∧ (Instr.ldb 0 23 0).wellFormed = true := by decide

theorem test_wellFormed_cext : (Instr.cext 0 0 9).wellFormed = false ∧ (Instr.cext 0 0 8).wellFormed = true := by decide

theorem test_wellFormed_cget : (Instr.cget 0 0 13).wellFormed = false ∧ (Instr.cget 0 0 12).wellFormed = true := by decide

theorem test_wellFormed_psnap :
    (Instr.psnap 7 0 .shallow).wellFormed = false ∧ (Instr.psnap 6 0 .shallow).wellFormed = true := by decide

/-! ### Decoding: a word written out field by field, `op d a b imm12`, for every constructor (R70 to R75) -/

/-- A word decodes to a command and the command encodes to the word. -/
def reads (w : Word) (i : Instr) : Bool := (decode w).toOption == some i && encode i == w

/-- A word is rejected with a name. -/
def rejects (w : Word) (e : Illegal) : Bool :=
  match decode w with
  | .ok _ => false
  | .error e' => e' == e

theorem test_decode_system :
    reads 0b00000000_0000_0000_0000_000000000000#32 .nop ∧
    reads 0b00000001_0000_0000_0000_000000000000#32 .fclr ∧
    reads 0b00000010_0011_0000_0000_000001100100#32 (.xli 3 100) ∧
    reads 0b00000011_0001_0000_0000_000000000001#32 (.xlih 1 1) ∧
    reads 0b00000100_0001_0000_0001_010111111011#32 (.ldb 1 21 0xFB) := by decide

theorem test_decode_softfloat :
    reads 0b00010000_0010_0000_0001_000000000000#32 (.fadd 2 0 1) ∧
    reads 0b00010001_0011_1111_0111_000000000000#32 (.fsub 3 15 7) ∧
    reads 0b00010010_1000_0100_0010_000000000000#32 (.fmul 8 4 2) ∧
    reads 0b00010011_0001_0010_1100_000000000000#32 (.fdiv 1 2 12) ∧
    reads 0b00010100_1111_1110_0111_000000000000#32 (.fmuli 15 14 7) ∧
    reads 0b00010101_1001_0001_0010_000000000000#32 (.ffrom 9 1 2) ∧
    reads 0b00010110_0011_1010_0000_000000000000#32 (.fmov 3 10) ∧
    reads 0b00011000_0111_1111_0000_000000000000#32 (.fmant 7 15) ∧
    reads 0b00011001_0100_1000_0000_000000000000#32 (.fexp 4 8) ∧
    reads 0b00011010_0101_0011_0000_000000000000#32 (.fsign 5 3) ∧
    reads 0b00011011_0111_0001_0000_000000000000#32 (.msb 7 1) ∧
    reads 0b00011100_0010_0110_0000_000000000000#32 (.lsb 2 6) := by decide

theorem test_decode_filters :
    reads 0b00100000_0001_0111_0000_000000100000#32 (.iirnew 1 7 32) ∧
    reads 0b00100001_0001_0110_0000_000000000000#32 (.iirpush 1 6) ∧
    reads 0b00100010_0110_0001_0000_000000000000#32 (.iiravg 6 1) ∧
    reads 0b00100100_0001_0011_0000_000000000101#32 (.firnew 1 3 5) ∧
    reads 0b00100101_0001_0010_0000_000000000000#32 (.firpush 1 2) ∧
    reads 0b00100110_0011_0001_0000_000000000000#32 (.firavg 3 1) := by decide

theorem test_decode_calibration :
    reads 0b00110000_0111_0001_1000_000000000000#32 (.cext 7 1 8) ∧
    reads 0b00110001_0001_0000_0000_000000000000#32 (.ksel 1) ∧
    reads 0b00110010_0001_1111_0001_000000000000#32 (.kset 1 15 .pressure) ∧
    reads 0b00110011_0001_0000_0000_000000000000#32 (.cinit 1) ∧
    reads 0b00110100_1111_0001_1100_000000000000#32 (.cget 15 1 12) ∧
    reads 0b00111000_0011_0001_0000_000000000000#32 (.adcext 3 1 .temperature) ∧
    reads 0b00111001_0001_0000_0000_000000000000#32 (.comp 1) := by decide

theorem test_decode_pipeline :
    reads 0b01000000_0001_0000_0000_000000000000#32 (.pfeed 1) ∧
    reads 0b01000001_1011_0001_0000_000000000000#32 (.pshal 11 1) ∧
    reads 0b01000010_1100_0001_0000_000000000000#32 (.pdeep 12 1) ∧
    reads 0b01000011_0110_0001_0001_000000000000#32 (.psnap 6 1 .deep) ∧
    reads 0b01000100_0101_0001_0000_000000000000#32 (.adiff 5 1 0) ∧
    reads 0b01000101_0001_0000_0000_000000000000#32 (.preset 1) := by decide

/-- Illegal words of 95_test_vectors.md section 8. -/
theorem test_decode_illegal :
    rejects 0xFFFFFFFF#32 .opcode ∧ rejects 0x17000000#32 .opcode ∧ rejects 0x46000000#32 .opcode ∧
    rejects 0x00000001#32 .unusedField ∧ rejects 0x0207FFFF#32 .unusedField ∧ rejects 0x20101000#32 .unusedField ∧
    rejects 0x31010000#32 .unusedField ∧ rejects 0x45000100#32 .unusedField ∧
    rejects 0x02800001#32 .operandRange ∧ rejects 0x04001800#32 .operandRange ∧ rejects 0x15F87000#32 .operandRange ∧
    rejects 0x20200000#32 .operandRange ∧ rejects 0x30719000#32 .operandRange ∧ rejects 0x321F2000#32 .operandRange ∧
    rejects 0x34F1D000#32 .operandRange ∧ rejects 0x43711000#32 .operandRange ∧ rejects 0x43612000#32 .operandRange ∧
    rejects 0x44F12000#32 .operandRange := by decide

theorem test_decodeTableWord : decodeTableWord 32 0x14FF7000 = some (.fmuli 15 15 7) ∧
    decodeTableWord 32 0x14FF8000 = none := by decide

/-! ### Helpers: small states, and the state after one command -/

/-- The state after a command. -/
def after (i : Instr) (s : State) : Option State :=
  match exec i s with
  | .next t => some t
  | .fault _ => none
  | .refused _ => none

/-- What a command leaves, seen through a view of the state, with its response. -/
def shows {α : Type} [DecidableEq α] (i : Instr) (s : State) (view : State → α) (v : α) : Bool :=
  (after i s).map (fun t => (view t, t.response)) == some (v, some .ok)

/-- A command raises a cause: the record is as R231 says for a first fault, and all else is as before. -/
def raises (i : Instr) (s : State) (c : Cause) : Bool :=
  after i s == some { s with
    status := s.status ||| BitVec.twoPow 32 c.code
    fcause := BitVec.ofNat 4 c.code
    fcmd := encode i
    errcnt := s.errcnt + 1
    response := some (.fault c) }

/-- `1`, `3`, `5` and the scale factors of 95_test_vectors.md. -/
def one : SoftFloat := ⟨0x40000000, -30⟩

def three : SoftFloat := ⟨0x60000000, -29⟩

def five : SoftFloat := ⟨0x50000000, -28⟩

/-- `f0`, `f1`, `x1`, `x2` loaded. -/
def loaded (a b : SoftFloat) (m e : Word) : State :=
  (((State.reset.writeF 0 a).writeF 1 b).writeX 1 m).writeX 2 e

/-- The first context as given. -/
def inCtx (ct : Context) : State := State.reset.writeCtx 0 ct

/-- The coefficient bytes of 95_test_vectors.md section 5. -/
def sampleCoef : Vector Byte 18 :=
  #v[0x0C, 0xBE, 0xFE, 0x13, 0xA5, 0x5F, 0x2E, 0x9A, 0xF4, 0xB8, 0x05, 0x1B, 0xDA, 0xAA, 0x00, 0x6A, 0xFA, 0xE0]

/-- A context with its bytes loaded and the scale factors of `MCFG = 6` (95_test_vectors.md sections 5 and 6). -/
def bytesContext : Context :=
  { Context.reset with
    mcfg := 6
    coef := sampleCoef
    rawt := #v[0x02, 0x66, 0x66]
    rawp := #v[0xFB, 0x6C, 0x20]
    kt := ⟨0x40000000, -11⟩
    kp := ⟨0x7F000000, -11⟩ }

/-- `c[0..8]` of 95_test_vectors.md section 5. -/
def sampleScaled : Vector SoftFloat 9 :=
  #v[⟨0x65800000, -23⟩, ⟨0xBF800000, -41⟩, ⟨0x4E954000, -14⟩, ⟨0x9679F3E8, -35⟩, ⟨0xA5C00000, -38⟩, ⟨0x5254A952, -59⟩,
     ⟨0xB425C684, -57⟩, ⟨0x6BAD0560, -83⟩, ⟨0xAC0C3614, -80⟩]

/-- The context after its CINIT. -/
def calibratedContext : Context := { bytesContext with c := sampleScaled, calibrated := true }

/-- The context after its first COMP. -/
def sampledContext : Context :=
  { calibratedContext with tcomp := ⟨0x7D99A680, -24⟩, pcomp := ⟨0x5BF9F4A4, -14⟩, compvalid := true }

/-- The context after its priming PFEED, with a second sample ready (95_test_vectors.md section 7.1). -/
def primedContext : Context :=
  { sampledContext with
    primed := true
    fexp := -14
    pcomp := ⟨0x5C000000, -14⟩
    shal := { valid := true, dp := 3, sum := 12344861984, avg := 0x5BF9F4A4, cur := 0
              buf := Vector.ofFn fun j => if j.val < 8 then 0x5BF9F4A4 else 0 }
    deep := { valid := true, dp := 5, sum := 49379447936, avg := 0x5BF9F4A4, cur := 0
              buf := Vector.replicate 32 0x5BF9F4A4 } }

/-! ### System commands (45_system.md) -/

theorem test_nop : after .nop State.reset = some { State.reset with response := some .ok } := by decide +kernel

/-- R211's example. -/
theorem test_fclr :
    after .fclr { State.reset with status := 4, fcause := 2, fcmd := 0x13201000, errcnt := 1 } =
      some { State.reset with errcnt := 1, response := some .ok } := by decide +kernel

theorem test_xli :
    shows (.xli 3 100) State.reset (·.readX 3) 100 ∧ shows (.xli 0 0x8000) State.reset (·.readX 0) 0xFFFF8000 := by
  decide +kernel

theorem test_xlih : shows (.xlih 1 1) (State.reset.writeX 1 0xFFFF8BCD) (·.readX 1) 0x00018BCD := by decide +kernel

theorem test_ldb :
    shows (.ldb 0 17 0xE0) State.reset (fun t => (t.readCtx 0).coef[17]) 0xE0 ∧
    shows (.ldb 1 18 0x02) State.reset (fun t => (t.readCtx 1).rawt[0]) 0x02 ∧
    shows (.ldb 0 23 0x20) State.reset (fun t => (t.readCtx 0).rawp[2]) 0x20 := by decide +kernel

theorem test_ldb_range : raises (.ldb 0 24 0) State.reset .illegalCommand := by decide +kernel

/-! ### SoftFloat (40_softfloat.md, examples of R105 to R121) -/

theorem test_fadd :
    shows (.fadd 2 0 1) (loaded one one 0 0) (·.readF 2) ⟨0x40000000, -29⟩ ∧
    shows (.fadd 0 0 1) (loaded ⟨0x62F34000, -14⟩ SoftFloat.zero 0 0) (·.readF 0) ⟨0x62F34000, -14⟩ := by decide +kernel

theorem test_fadd_range :
    raises (.fadd 2 0 1) (loaded ⟨0x40000000, 2147483647⟩ ⟨0x40000000, 2147483647⟩ 0 0) .exponentRange := by
  decide +kernel

theorem test_fsub :
    shows (.fsub 2 0 1) (loaded three five 0 0) (·.readF 2) ⟨0xC0000000, -29⟩ ∧
    shows (.fsub 1 0 1) (loaded SoftFloat.zero one 0 0) (·.readF 1) ⟨0xC0000000, -30⟩ := by decide +kernel

theorem test_fmul : shows (.fmul 1 0 1) (loaded three five 0 0) (·.readF 1) ⟨0x78000000, -27⟩ := by decide +kernel

theorem test_fdiv : shows (.fdiv 2 0 1) (loaded one three 0 0) (·.readF 2) ⟨0x55555555, -32⟩ := by decide +kernel

theorem test_fdiv_zero : raises (.fdiv 2 0 1) (loaded one SoftFloat.zero 0 0) .divisionByZero := by decide +kernel

theorem test_fmuli :
    shows (.fmuli 2 0 1) (loaded ⟨0x60000000, -30⟩ one 7 0) (·.readF 2) ⟨0x54000000, -27⟩ := by decide +kernel

theorem test_ffrom :
    shows (.ffrom 0 1 2) (loaded one one 101325 0) (·.readF 0) ⟨0x62F34000, -14⟩ ∧
    shows (.ffrom 0 1 2) (loaded one one 0x80000000 5) (·.readF 0) ⟨0xC0000000, 6⟩ := by decide +kernel

theorem test_fmov : shows (.fmov 3 0) (loaded one three 0 0) (·.readF 3) one := by decide +kernel

theorem test_fmant : shows (.fmant 0 1) (loaded one ⟨0xC0000000, -30⟩ 0 0) (·.readX 0) (-1073741824) := by decide +kernel

theorem test_fexp : shows (.fexp 0 1) (loaded one ⟨0x62F34000, -14⟩ 0 0) (·.readX 0) (-14) := by decide +kernel

theorem test_fsign :
    shows (.fsign 0 1) (loaded one SoftFloat.zero 0 0) (·.readX 0) 1 ∧
    shows (.fsign 0 1) (loaded one ⟨0xC0000000, -30⟩ 0 0) (·.readX 0) 0xFFFFFFFF := by decide +kernel

theorem test_msb :
    shows (.msb 0 1) (loaded one one 101325 0) (·.readX 0) 16 ∧ shows (.msb 0 1) State.reset (·.readX 0) (-1) ∧
    shows (.msb 0 1) (loaded one one 0x80000001 0) (·.readX 0) 31 := by decide +kernel

theorem test_lsb :
    shows (.lsb 0 1) (loaded one one 0x62F34000 0) (·.readX 0) 14 ∧ shows (.lsb 0 1) State.reset (·.readX 0) (-1) ∧
    shows (.lsb 0 1) (loaded one one 0x80000000 0) (·.readX 0) 31 := by decide +kernel

/-! ### Filters (41_filters.md, examples of R144 to R151) -/

def sampleIir : Iir := { valid := true, dp := 2, sum := 400, avg := 100 }

def sampleFir : Fir :=
  { valid := true, dp := 2, sum := 40, avg := 10, cur := 0
    buf := Vector.ofFn fun j => if j.val < 4 then 10 else 0 }

theorem test_iirnew : shows (.iirnew 0 3 2) (State.reset.writeX 3 100) (·.readIir 0) sampleIir := by decide +kernel

theorem test_iirnew_depth : raises (.iirnew 0 3 32) State.reset .filterConfig := by decide +kernel

theorem test_iirpush :
    shows (.iirpush 0 3) ((State.reset.writeX 3 200).writeIir 0 sampleIir) (·.readIir 0)
      { valid := true, dp := 2, sum := 500, avg := 125 } := by decide +kernel

theorem test_iiravg : shows (.iiravg 0 0) (State.reset.writeIir 0 sampleIir) (·.readX 0) 100 := by decide +kernel

theorem test_iiravg_invalid : raises (.iiravg 0 0) State.reset .filterInvalid := by decide +kernel

theorem test_firnew : shows (.firnew 0 1 2) (State.reset.writeX 1 10) (·.readFir 0) sampleFir := by decide +kernel

theorem test_firnew_depth : raises (.firnew 0 1 6) State.reset .filterConfig := by decide +kernel

theorem test_firpush :
    shows (.firpush 0 1) ((State.reset.writeX 1 20).writeFir 0 sampleFir)
      (fun t => ((t.readFir 0).sum, (t.readFir 0).avg, (t.readFir 0).cur, (t.readFir 0).buf[0])) (50, 12, 1, 20) := by
  decide +kernel

/-- The average floors: slots `-1, 0, 0, 0` (R150). -/
theorem test_firpush_negative :
    shows (.firpush 0 1) ((State.reset.writeX 1 (-1)).writeFir 0 { Fir.reset with valid := true, dp := 2 })
      (fun t => ((t.readFir 0).sum, (t.readFir 0).avg)) (-1, -1) := by decide +kernel

theorem test_firavg : shows (.firavg 1 0) (State.reset.writeFir 0 sampleFir) (·.readX 1) 10 := by decide +kernel

/-! ### Calibration and compensation (95_test_vectors.md sections 5 and 6) -/

theorem test_cext :
    shows (.cext 0 0 1) (inCtx bytesContext) (·.readX 0) 0xFFFFFEFE ∧
    shows (.cext 0 0 3) (inCtx bytesContext) (·.readX 0) 0xFFFF2E9A := by decide +kernel

theorem test_ksel :
    shows (.ksel 0) (inCtx { Context.reset with mcfg := 0x06 }) (fun t => ((t.readCtx 0).kt, (t.readCtx 0).kp))
      (⟨0x40000000, -11⟩, ⟨0x7F000000, -11⟩) := by decide +kernel

theorem test_kset :
    shows (.kset 0 1 .pressure) (loaded one ⟨0x7E000000, -12⟩ 0 0) (fun t => ((t.readCtx 0).kt, (t.readCtx 0).kp))
      (SoftFloat.zero, ⟨0x7E000000, -12⟩) := by decide +kernel

theorem test_cinit :
    shows (.cinit 0) (inCtx bytesContext)
      (fun t => ((t.readCtx 0).c, (t.readCtx 0).craw.map BitVec.toInt, (t.readCtx 0).calibrated))
      (sampleScaled, #v[203, -258, 80469, -53606, -2888, 1307, -9558, 106, -1312], true) := by decide +kernel

theorem test_cinit_locked : raises (.cinit 0) (inCtx calibratedContext) .configLocked := by decide +kernel

theorem test_cget : shows (.cget 0 0 1) (inCtx calibratedContext) (·.readF 0) ⟨0xBF800000, -41⟩ := by decide +kernel

theorem test_adcext :
    shows (.adcext 0 0 .pressure) (inCtx bytesContext) (·.readX 0) 0xFFFB6C20 ∧
    shows (.adcext 0 0 .temperature) (inCtx bytesContext) (·.readX 0) 157286 := by decide +kernel

theorem test_comp :
    shows (.comp 0) (inCtx calibratedContext)
      (fun t => ((t.readCtx 0).tcomp, (t.readCtx 0).pcomp, (t.readCtx 0).compvalid))
      (⟨0x7D99A680, -24⟩, ⟨0x5BF9F4A4, -14⟩, true) := by decide +kernel

/-! ### Pipeline (95_test_vectors.md section 7) -/

theorem test_pfeed_primes :
    shows (.pfeed 0) (inCtx sampledContext) (·.readCtx 0) { primedContext with pcomp := sampledContext.pcomp } := by
  decide +kernel

theorem test_pfeed_pushes :
    shows (.pfeed 0) (inCtx primedContext)
      (fun t => ((t.readCtx 0).shal.sum, (t.readCtx 0).shal.avg, (t.readCtx 0).deep.sum, (t.readCtx 0).deep.avg))
      (12345258108, 0x5BFAB60F, 49379844060, 0x5BFA24FE) := by decide +kernel

theorem test_pshal : shows (.pshal 0 0) (inCtx primedContext) (·.readF 0) ⟨0x5BF9F4A4, -14⟩ := by decide +kernel

theorem test_pdeep : shows (.pdeep 0 0) (inCtx primedContext) (·.readF 0) ⟨0x5BF9F4A4, -14⟩ := by decide +kernel

theorem test_psnap :
    shows (.psnap 2 0 .deep) (inCtx primedContext) (fun t => (t.readX 2, t.readX 3)) (0x5BF9F4A4, 0xFFFFFFF2) := by
  decide +kernel

/-- R199's example. -/
theorem test_adiff :
    shows (.adiff 0 1 0)
      ((inCtx primedContext).writeCtx 1 { primedContext with deep := { primedContext.deep with avg := 0x5C12F47A } })
      (·.readF 0) ⟨0x63FF5800, -24⟩ := by decide +kernel

theorem test_adiff_unprimed : raises (.adiff 0 1 0) (inCtx primedContext) .notPrimed := by decide +kernel

theorem test_preset :
    shows (.preset 0) (inCtx primedContext) (·.readCtx 0) { sampledContext with pcomp := primedContext.pcomp } := by
  decide +kernel

/-! ### Steps, the port, the host's floats, the assembler -/

/-- The state after one step. -/
def stepped (s : State) : Option State :=
  match step s with
  | .next t => some t
  | .fault _ => none
  | .refused _ => none

/-- The word placed for the next step runs and is taken off the queue. -/
theorem test_step_command :
    stepped (State.reset.withFetchWord 32 0x02300064) =
      some { State.reset.writeX 3 100 with response := some .ok } := by decide +kernel

theorem test_step_illegal :
    (stepped (State.reset.withFetchWord 32 0xFFFFFFFF)).map (fun t => (t.status, t.fcause, t.fcmd, t.errcnt)) =
      some (2, 1, 0xFFFFFFFF, 1) := by decide +kernel

/-- Reserved and byte-wide bits are dropped (R34, R35, R56); a read-only register keeps its value (R55). -/
theorem test_port :
    (State.reset.portWrite 0x100 0xFFFFFFFF).portRead 0x100 = 0x77 ∧
    (State.reset.portWrite 0x201 0xFFFFFFFF).portRead 0x201 = 0x000F1F1F ∧
    (State.reset.portWrite 0x121 0x12345678).portRead 0x121 = 0x78 ∧
    State.reset.portWrite 0x020 5 = State.reset ∧
    (inCtx primedContext).portRead 0x160 = 0x301 ∧ (inCtx primedContext).portRead 0x102 = 7 ∧
    (inCtx primedContext).portRead 0x16B = 0xB ∧ (inCtx primedContext).portRead 0x16A = 0x7F3E9480 := by decide +kernel

/-- Examples of R221 and R222. -/
theorem test_floats :
    fromFloat 0x47C5E680 = some ⟨0x62F34000, -14⟩ ∧ fromFloat 0x3DCCCCCD = some ⟨0x66666680, -34⟩ ∧
    fromFloat 0x7F800000 = none ∧
    toFloat .nearestEven ⟨0x7FFFFFFF, 0⟩ = 0x4F000000 ∧ toFloat .towardZero ⟨0x7FFFFFFF, 0⟩ = 0x4EFFFFFF ∧
    toFloat .nearestEven ⟨0x400000C0, -30⟩ = 0x3F800002 ∧ toFloat .nearestEven ⟨0x40000040, -30⟩ = 0x3F800000 ∧
    toFloat .nearestEven ⟨0x55555555, -32⟩ = 0x3EAAAAAB := by decide +kernel

/-- Examples of R78 and expansions of R79. -/
theorem test_assembler :
    assemble "KSET k1, f4, p" = some [.kset 1 4 .pressure] ∧ assemble "LDB k0, 17, 0xE0" = some [.ldb 0 17 0xE0] ∧
    assemble "CEXT x0, k0, c10" = some [.cext 0 0 3] ∧ assemble "SAMPLE k1 ; feed" = some [.comp 1, .pfeed 1] ∧
    assemble "XLI32 x1, 101325" = some [.xli 1 0x8BCD, .xlih 1 1] ∧ assemble "PSNAP x7, k0, deep" = none ∧
    instrText (.adiff 5 1 0) = "ADIFF f5, k1, k0" := by decide +kernel

/-! ### States and operands that meet the hypotheses of the statements

`witness_X` and `witness_X_<clause>` are for `Obligations.X`. -/

theorem witness_DecodeOfEncodeIsTheCommand :
    (Instr.ldb 1 23 0xFF).wellFormed = true ∧ (Instr.cext 7 1 8).wellFormed = true ∧
    (Instr.cget 15 1 12).wellFormed = true ∧ (Instr.psnap 6 1 .deep).wellFormed = true := by decide

theorem witness_EncodeOfDecodeIsTheWord : decode 0x30718000#32 = .ok (.cext 7 1 8) := rfl

theorem witness_StepRunsTheDecodedCommand :
    (State.reset.withCommand 0x02300064).pending = .write 0 0x02300064 :: [] ∧
    decode 0x02300064#32 = .ok (.xli 3 100) := ⟨rfl, rfl⟩

theorem witness_IssuedEncodingRunsTheTerm :
    (Instr.ldb 0 24 0).wellFormed = false ∧ (Instr.cext 0 0 9).wellFormed = false ∧
    (Instr.cget 0 0 13).wellFormed = false ∧ (Instr.psnap 7 0 .deep).wellFormed = false := by decide

/-- FDIV of `ZERO` by `ZERO` faults. -/
theorem witness_FaultsArePrecise :
    ∃ t c, issue 0x13201000 State.reset = .next t ∧ t.response = some (.fault c) :=
  ⟨_, .divisionByZero, rfl, rfl⟩

theorem witness_IllegalWordsRaiseIllegalCommand : ∀ r ∈ opcodeTable, r.accepts 0x04001800#32 = false := by decide

/-- The count at its last value below saturation, with a faulting and a completing command. -/
theorem witness_ErrcntCountsTheFaults :
    let s : State := { State.reset with errcnt := 0xFFFFFFFE }
    (∃ t c, step (s.withCommand 0x13201000) = .next t ∧ t.response = some (.fault c) ∧ t.errcnt = 0xFFFFFFFF) ∧
    (∃ t, step (s.withCommand 0) = .next t ∧ t.response = some .ok ∧ t.errcnt = 0xFFFFFFFE) ∧
    (∀ w rest, (s.withCommand w).pending ≠ .reset :: rest) ∧ ∀ w, (s.withCommand w).pending ≠ [] :=
  ⟨⟨_, .divisionByZero, rfl, rfl, rfl⟩, ⟨_, rfl, rfl, rfl⟩, by simp [State.withCommand], by simp [State.withCommand]⟩

theorem witness_StickyFlagsStay :
    let s : State := { State.reset with status := 4, pending := [.write 0 0xFFFFFFFF] }
    (∃ t, step s = .next t) ∧ (∀ rest, s.pending ≠ .reset :: rest) ∧ (∀ v rest, s.pending ≠ .write 1 v :: rest) ∧
    (∀ rest, s.pending ≠ .write 0 (encode .fclr) :: rest) ∧ s.status.getLsbD 2 = true :=
  ⟨⟨_, rfl⟩, by simp, by simp, by simp [show (0xFFFFFFFF#32) ≠ encode .fclr by decide], rfl⟩

/-- All three flags set, and a PRESET of the other context. -/
theorem witness_ProgressFlagsStay :
    let s : State := { inCtx primedContext with pending := [.write 0 (encode (.preset 1))] }
    (∃ t, step s = .next t) ∧ (∀ rest, s.pending ≠ .reset :: rest) ∧ (s.readCtx 0).calibrated = true ∧
    (s.readCtx 0).compvalid = true ∧ (s.readCtx 0).primed = true ∧
    ∀ rest, s.pending ≠ .write 0 (encode (.preset 0)) :: rest :=
  ⟨⟨_, rfl⟩, by simp, by decide +kernel, by decide +kernel, by decide +kernel,
    by simp [show encode (.preset 1) ≠ encode (.preset 0) by decide]⟩

theorem witness_CalibrationIsImmutable :
    let s : State := { inCtx calibratedContext with pending := [.write 0 (encode (.ksel 0))] }
    (∃ t, step s = .next t) ∧ (∀ rest, s.pending ≠ .reset :: rest) ∧ (s.readCtx 0).calibrated = true :=
  ⟨⟨_, rfl⟩, by simp, by decide +kernel⟩

theorem witness_NopChangesNothing : (0x00100000#32).toNat / 2 ^ 24 = 0 ∧ 0x00100000#32 ≠ 0 := by decide

theorem witness_ContextsAreIsolated :
    ∃ t, exec (.ksel 1) State.reset = .next t ∧ writtenContext (.ksel 1) ≠ some 0 ∧
      (.ksel 1 : Instr) ≠ .pfeed 1 ∧ (.ksel 1 : Instr) ≠ .preset 1 :=
  ⟨_, rfl, by decide, by decide, by decide⟩

theorem witness_LdbIsThePortWriteOfTheByte :
    ((17#8).toNat ≤ 17 ∧ 0x221 = 0x110 + 0x100 * (1 : CtxId).val + (17#8).toNat) ∧
    (18 ≤ (18#8).toNat ∧ (18#8).toNat ≤ 20 ∧ 0x124 = 0x124 + 0x100 * (0 : CtxId).val + ((18#8).toNat - 18)) ∧
    (18 ≤ (20#8).toNat ∧ (20#8).toNat ≤ 20 ∧ 0x126 = 0x124 + 0x100 * (0 : CtxId).val + ((20#8).toNat - 18)) ∧
    (21 ≤ (21#8).toNat ∧ (21#8).toNat ≤ 23 ∧ 0x128 = 0x128 + 0x100 * (0 : CtxId).val + ((21#8).toNat - 21)) ∧
    (21 ≤ (23#8).toNat ∧ (23#8).toNat ≤ 23 ∧ 0x12A = 0x128 + 0x100 * (0 : CtxId).val + ((23#8).toNat - 21)) ∧
    23 < (24#8).toNat := by decide

/-! #### Exact values -/

/-- A normalized SoftFloat is the truncation of its own value. -/
theorem isTrunc31_val {q : SoftFloat} (h : q.Normalized) : IsTrunc31 q q.val := by
  have hp : (0 : ℚ) < 2 ^ q.exp.toInt := by positivity
  have key : q.val = 0 ↔ q.mant = 0 := by
    rw [SoftFloat.val, mul_eq_zero, or_iff_left hp.ne', Int.cast_eq_zero, ← BitVec.toInt_inj]; rfl
  exact ⟨h, fun hy => h.eq_zero (key.mp hy), fun hy => ⟨fun hm => hy (key.mpr hm), mul_self_pos.mpr hy, le_rfl,
    lt_add_of_pos_right _ hp⟩⟩

/-- A power of two past the largest magnitude of R124 has no truncation. -/
theorem no_trunc31 {y : ℚ} {e : ℤ} (he : 2147483678 ≤ e) (h : 2 ^ e ≤ |y|) : ¬∃ q, IsTrunc31 q y := by
  rintro ⟨q, hn, -, hy⟩
  have hp : (0 : ℚ) < 2 ^ e := by positivity
  obtain ⟨-, -, -, hlt⟩ := hy (abs_pos.mp (hp.trans_le h))
  have hm : |(q.mant.toInt : ℚ)| + 1 ≤ 2 ^ (31 : ℤ) := by
    have := hn.natAbs_le
    have h' : |q.mant.toInt| + 1 ≤ 2 ^ 31 := by rw [Int.abs_eq_natAbs]; omega
    exact_mod_cast h'
  have hx : (2 : ℚ) ^ q.exp.toInt ≤ 2 ^ (e - 31) :=
    zpow_le_zpow_right₀ (by norm_num) (by have := (word_toInt_range q.exp).2; omega)
  have hq : |q.val| + 2 ^ q.exp.toInt = (|(q.mant.toInt : ℚ)| + 1) * 2 ^ q.exp.toInt := by
    rw [SoftFloat.val, abs_mul, abs_of_pos (show (0 : ℚ) < 2 ^ q.exp.toInt by positivity)]; ring
  have hb : (|(q.mant.toInt : ℚ)| + 1) * 2 ^ q.exp.toInt ≤ 2 ^ (31 : ℤ) * 2 ^ (e - 31) :=
    mul_le_mul hm hx (by positivity) (by positivity)
  rw [← zpow_add₀ (by norm_num), add_sub_cancel, ← hq] at hb
  exact absurd (hlt.trans_le hb) (not_lt.mpr h)

/-- A truncation keeps more than half of a value. -/
theorem half_le_trunc {q : SoftFloat} {y : ℚ} (h : IsTrunc31 q y) : |y| ≤ 2 * |q.val| := by
  obtain ⟨hn, h0, hy⟩ := h
  by_cases hz : y = 0
  · rw [hz, abs_zero]; positivity
  · obtain ⟨hm, -, -, hlt⟩ := hy hz
    have hp : (0 : ℚ) < 2 ^ q.exp.toInt := by positivity
    have h1 : (1 : ℚ) ≤ |(q.mant.toInt : ℚ)| := by
      rw [← Int.cast_abs]
      exact_mod_cast Int.one_le_abs fun h' => hm (BitVec.toInt_inj.mp h')
    have h2 : 2 ^ q.exp.toInt ≤ |q.val| := by
      rw [SoftFloat.val, abs_mul, abs_of_pos hp]; exact le_mul_of_one_le_left hp.le h1
    linarith

/-- `ZERO` is the truncation of 0. -/
theorem zero_is_trunc : IsTrunc31 SoftFloat.zero 0 := ⟨.inl rfl, fun _ => rfl, fun h => absurd rfl h⟩

theorem val_zero : SoftFloat.zero.val = 0 := by
  rw [SoftFloat.val, show SoftFloat.zero.mant.toInt = 0 from rfl, Int.cast_zero, zero_mul]

theorem alignedSum_zero (a : SoftFloat) : alignedSum SoftFloat.zero a = a.val := if_pos rfl

/-- The largest power of two a SoftFloat holds, its negation, and the smallest. -/
def huge : SoftFloat := ⟨0x40000000, 2147483647⟩

def minusHuge : SoftFloat := ⟨0xC0000000, 2147483647⟩

def tiny : SoftFloat := ⟨0x40000000, 0x80000000⟩

theorem power_mant : BitVec.toInt (0x40000000 : Word) = 2 ^ 30 := by decide

theorem val_power (a : SoftFloat) (h : a.mant = 0x40000000) : a.val = 2 ^ (a.exp.toInt + 30) := by
  rw [SoftFloat.val, h, power_mant, zpow_add₀ (by norm_num), mul_comm]; norm_cast

theorem alignedSum_self (a : SoftFloat) (h : a.mant = 0x40000000) : alignedSum a a = 2 ^ (a.exp.toInt + 31) := by
  rw [alignedSum, if_neg (by rw [h]; decide), if_neg (by rw [h]; decide), if_pos le_rfl, h, power_mant,
    zpow_add₀ (by norm_num), mul_comm]
  norm_num

theorem two_is_trunc : IsTrunc31 ⟨0x40000000, -29⟩ (alignedSum one one) := by
  have h := isTrunc31_val (q := ⟨0x40000000, -29⟩) (by decide +kernel)
  rw [val_power _ rfl] at h
  rw [alignedSum_self one rfl]
  exact h

theorem huge_overflows : ¬∃ q, IsTrunc31 q (alignedSum huge huge) := by
  refine no_trunc31 (e := huge.exp.toInt + 31) (by decide) ?_
  rw [alignedSum_self huge rfl]; exact le_abs_self _

theorem witness_FaddWritesTheAlignedSum :
    let s := loaded one one 0 0
    let o := loaded huge huge 0 0
    (s.readF 0).Normalized ∧ (s.readF 1).Normalized ∧ (s.readF 0).InnerExponent ∧ (s.readF 1).InnerExponent ∧
    IsTrunc31 ⟨0x40000000, -29⟩ (alignedSum (s.readF 0) (s.readF 1)) ∧
    (o.readF 0).Normalized ∧ (o.readF 1).Normalized ∧
    ¬∃ q, IsTrunc31 q (alignedSum (o.readF 0) (o.readF 1)) :=
  ⟨by decide +kernel, by decide +kernel, by decide +kernel, by decide +kernel, two_is_trunc, by decide +kernel,
    by decide +kernel, huge_overflows⟩

theorem witness_FsubWritesTheAlignedDifference :
    let s := loaded one one.neg 0 0
    let o := loaded huge minusHuge 0 0
    (s.readF 0).Normalized ∧ (s.readF 1).Normalized ∧ (s.readF 0).InnerExponent ∧ (s.readF 1).InnerExponent ∧
    IsTrunc31 ⟨0x40000000, -29⟩ (alignedSum (s.readF 0) (s.readF 1).neg) ∧
    (o.readF 0).Normalized ∧ (o.readF 1).Normalized ∧
    ¬∃ q, IsTrunc31 q (alignedSum (o.readF 0) (o.readF 1).neg) := by
  have h₁ : one.neg.neg = one := by decide +kernel
  have h₂ : minusHuge.neg = huge := by decide +kernel
  refine ⟨by decide +kernel, by decide +kernel, by decide +kernel, by decide +kernel, ?_, by decide +kernel,
    by decide +kernel, ?_⟩
  · show IsTrunc31 _ (alignedSum one one.neg.neg)
    rw [h₁]; exact two_is_trunc
  · show ¬∃ q, IsTrunc31 q (alignedSum huge minusHuge.neg)
    rw [h₂]; exact huge_overflows

/-- The alignment shift at its first value that empties the smaller operand. -/
theorem witness_AdditionLaws :
    let a : SoftFloat := ⟨0x40000000, 31⟩
    let b : SoftFloat := ⟨0x7FFFFFFF, 0⟩
    a.Normalized ∧ b.Normalized ∧ a.mant ≠ 0 ∧ b.exp.toInt + 31 ≤ a.exp.toInt := by decide +kernel

theorem witness_FmulWritesTheTruncatedProduct :
    let s := loaded one one 0 0
    let o := loaded huge huge 0 0
    (s.readF 0).Normalized ∧ (s.readF 1).Normalized ∧ (s.readF 0).InnerExponent ∧ (s.readF 1).InnerExponent ∧
    IsTrunc31 one ((s.readF 0).val * (s.readF 1).val) ∧
    (o.readF 0).Normalized ∧ (o.readF 1).Normalized ∧ ¬∃ q, IsTrunc31 q ((o.readF 0).val * (o.readF 1).val) := by
  refine ⟨by decide +kernel, by decide +kernel, by decide +kernel, by decide +kernel, ?_, by decide +kernel,
    by decide +kernel, ?_⟩
  · show IsTrunc31 one (one.val * one.val)
    have h := isTrunc31_val (q := one) (by decide +kernel)
    rw [show one.val = 1 from val_power one rfl] at h ⊢
    rwa [one_mul]
  · show ¬∃ q, IsTrunc31 q (huge.val * huge.val)
    rw [val_power huge rfl, ← zpow_add₀ (by norm_num)]
    exact no_trunc31 (by decide) (le_abs_self _)

theorem witness_FdivWritesTheTruncatedQuotient :
    let s := loaded one one 0 0
    let o := loaded huge tiny 0 0
    let z := loaded SoftFloat.zero SoftFloat.zero 0 0
    (s.readF 0).Normalized ∧ (s.readF 1).Normalized ∧ (s.readF 1).mant ≠ 0 ∧ (s.readF 0).InnerExponent ∧
    (s.readF 1).InnerExponent ∧ IsTrunc31 one ((s.readF 0).val / (s.readF 1).val) ∧
    (o.readF 0).Normalized ∧ (o.readF 1).Normalized ∧ (o.readF 1).mant ≠ 0 ∧
    (¬∃ q, IsTrunc31 q ((o.readF 0).val / (o.readF 1).val)) ∧
    (z.readF 0).Normalized ∧ (z.readF 1).Normalized ∧ (z.readF 1).mant = 0 := by
  refine ⟨by decide +kernel, by decide +kernel, by decide +kernel, by decide +kernel, by decide +kernel, ?_,
    by decide +kernel, by decide +kernel, by decide +kernel, ?_, by decide +kernel, by decide +kernel, by decide +kernel⟩
  · show IsTrunc31 one (one.val / one.val)
    have h := isTrunc31_val (q := one) (by decide +kernel)
    rw [show one.val = 1 from val_power one rfl] at h ⊢
    rwa [div_one]
  · show ¬∃ q, IsTrunc31 q (huge.val / tiny.val)
    rw [val_power huge rfl, val_power tiny rfl, ← zpow_sub₀ (by norm_num)]
    exact no_trunc31 (by decide) (le_abs_self _)

theorem witness_FmuliWritesTheTruncatedProduct :
    let s := loaded one one 2 0
    let o := loaded huge one 2 0
    (s.readF 0).Normalized ∧ (s.readF 0).InnerExponent ∧
    IsTrunc31 ⟨0x40000000, -29⟩ ((s.readF 0).val * (s.readX 1).toInt) ∧
    (o.readF 0).Normalized ∧ ¬∃ q, IsTrunc31 q ((o.readF 0).val * (o.readX 1).toInt) := by
  refine ⟨by decide +kernel, by decide +kernel, ?_, by decide +kernel, ?_⟩
  · show IsTrunc31 _ (one.val * ((2#32).toInt : ℚ))
    have h := isTrunc31_val (q := ⟨0x40000000, -29⟩) (by decide +kernel)
    rw [val_power _ rfl] at h
    rw [val_power _ rfl, show ((2#32).toInt : ℚ) = 2 ^ (1 : ℤ) from rfl, ← zpow_add₀ (by norm_num)]
    exact h
  · show ¬∃ q, IsTrunc31 q (huge.val * ((2#32).toInt : ℚ))
    rw [val_power _ rfl, show ((2#32).toInt : ℚ) = 2 ^ (1 : ℤ) from rfl, ← zpow_add₀ (by norm_num)]
    exact no_trunc31 (by decide) (le_abs_self _)

/-- The one integer and exponent whose exact value lies above every SoftFloat. -/
theorem above_range : ¬∃ q : SoftFloat, q.Normalized ∧
    q.val = ((0x80000000 : Word).toInt : ℚ) * 2 ^ (2147483647 : Word).toInt := by
  rintro ⟨q, hq, hv⟩
  refine no_trunc31 (y := q.val) (e := huge.exp.toInt + 31) (by decide) ?_ ⟨q, isTrunc31_val hq⟩
  have hv' : q.val = ((0x80000000#32).toInt : ℚ) * 2 ^ huge.exp.toInt := hv
  rw [hv', abs_mul, zpow_add₀ (by norm_num), mul_comm, abs_of_pos (show (0 : ℚ) < 2 ^ huge.exp.toInt by positivity)]
  rw [show ((0x80000000#32).toInt : ℚ) = -2 ^ 31 by rw [show (0x80000000#32).toInt = -2 ^ 31 by decide]; norm_num]
  norm_num

/-- Both ends of the exponents at which FFROM always completes, and the one integer and exponent where it faults above. -/
theorem witness_FfromConvertsExactly :
    let s := loaded one one 0x40000000 (-30)
    let o := loaded one one 0x80000000 2147483647
    (one.Normalized ∧ one.val = ((s.readX 1).toInt : ℚ) * 2 ^ (s.readX 2).toInt) ∧
    (¬∃ q : SoftFloat, q.Normalized ∧ q.val = ((o.readX 1).toInt : ℚ) * 2 ^ (o.readX 2).toInt) ∧
    (-2147483618 ≤ ((loaded one one 1 0x8000001E).readX 2).toInt ∧
      ((loaded one one 1 0x8000001E).readX 2).toInt ≤ 2147483646) ∧
    (-2147483618 ≤ ((loaded one one 1 2147483646).readX 2).toInt ∧
      ((loaded one one 1 2147483646).readX 2).toInt ≤ 2147483646) :=
  ⟨⟨by decide +kernel, rfl⟩, above_range, by decide +kernel, by decide +kernel⟩

theorem witness_MovesCopyTheFields :
    (1 : XReg) ≠ 2 ∧ ((loaded three one 0 0).readF 0).Normalized := by decide +kernel

theorem witness_BitScansFindTheBits : State.reset.readX 0 = 0 ∧ (loaded one one 0x80000000 0).readX 1 ≠ 0 := by
  decide +kernel

/-! #### Filters -/

theorem witness_IirCommandsFollowTheRecurrence :
    (31#12).toNat ≤ 31 ∧ 31 < (32#12).toNat ∧ ((State.reset.writeIir 1 sampleIir).readIir 1).valid = true ∧
    ((State.reset.writeIir 1 sampleIir).readIir 1).Consistent ∧ (State.reset.readIir 1).valid = false := by
  decide +kernel

theorem witness_IirConvergesToAConstant :
    sampleIir.Consistent ∧ sampleIir.avg.toInt ≤ (200#32).toInt ∧ (100#32).toInt ≤ sampleIir.avg.toInt := by
  decide +kernel

theorem witness_IirStaysInTheSampleRange :
    ((-5 : Int) ≤ (0#32).toInt ∧ (0#32).toInt ≤ 7) ∧ ∀ v ∈ [7#32, -5#32], (-5 : Int) ≤ v.toInt ∧ v.toInt ≤ 7 := by
  refine ⟨by decide, ?_⟩
  simp

theorem witness_FirCommandsFollowTheRecurrence :
    (5#12).toNat ≤ 5 ∧ 5 < (6#12).toNat ∧ ((State.reset.writeFir 1 sampleFir).readFir 1).valid = true ∧
    ((State.reset.writeFir 1 sampleFir).readFir 1).Consistent ∧ (State.reset.readFir 1).valid = false := by
  decide +kernel

/-- Two units of one depth and cursor, and a window's length of samples. -/
theorem witness_FirWindowFillsWithAConstant :
    sampleFir.Consistent ∧ primedContext.deep.Consistent ∧ (firNew Fir.reset 2 7).Consistent ∧
    sampleFir.dp = (firNew Fir.reset 2 7).dp ∧ sampleFir.cur = (firNew Fir.reset 2 7).cur ∧
    2 ^ sampleFir.dp.val ≤ [1#32, 2#32, 3#32, 4#32].length := by decide +kernel

/-! #### Calibration and compensation -/

theorem witness_CextReadsTheField :
    (inCtx bytesContext).params.valid = true ∧ (8#4).toNat < 9 ∧ 9 ≤ (9#4).toNat := by decide +kernel

theorem witness_ScaleFactorsAreSetUntilLocked :
    ((inCtx bytesContext).readCtx 0).calibrated = false ∧ ((inCtx calibratedContext).readCtx 0).calibrated = true := by
  decide +kernel

/-- Two scale factors so small that the second division of `c11` has no SoftFloat. -/
def tinyScale : Context := { bytesContext with kt := tiny, kp := tiny }

theorem tinyScale_overflows (n : Vector SoftFloat 9) (r : Vector Word 9) (h : r[5].toInt = 1307) :
    ¬IsScaledSet n r tiny tiny := by
  rintro ⟨-, -, -, -, -, ⟨m, hm, m', hm', -⟩, -⟩
  have ht : (0 : ℚ) < tiny.val := by rw [val_power tiny rfl]; positivity
  have h1 := half_le_trunc hm
  refine no_trunc31 (e := -(tiny.exp.toInt + 30) + -(tiny.exp.toInt + 30)) (by decide) ?_ ⟨m', hm'⟩
  rw [h, abs_div, abs_of_pos ht] at h1
  rw [abs_div, abs_of_pos ht, zpow_add₀ (by norm_num), zpow_neg, ← val_power tiny rfl, ← div_eq_mul_inv]
  refine div_le_div_of_nonneg_right ?_ ht.le
  have : (0 : ℚ) < tiny.val⁻¹ := by positivity
  rw [div_eq_mul_inv, abs_of_pos (by norm_num)] at h1
  norm_num at h1
  linarith

/-- Sample factors, the uncalibrated context after reset with its bytes still 0, factors out of range, and the pressure
factor alone still zero. -/
theorem witness_CinitDecodesAndScales :
    let s := inCtx bytesContext
    let z := inCtx { bytesContext with coef := Vector.replicate 18 0 }
    let o := inCtx tinyScale
    let h := inCtx { bytesContext with kp := SoftFloat.zero }
    (s.params.valid = true ∧ (s.readCtx 0).calibrated = false ∧ (s.readCtx 0).kt.Tame ∧ (s.readCtx 0).kp.Tame ∧
      (s.readCtx 0).kt.mant ≠ 0 ∧ (s.readCtx 0).kp.mant ≠ 0) ∧
    ((h.readCtx 0).calibrated = false ∧ (h.readCtx 0).kt.mant ≠ 0 ∧ (h.readCtx 0).kp.mant = 0) ∧
    IsScaledSet (Vector.replicate 9 SoftFloat.zero) (Vector.replicate 9 0) (z.readCtx 0).kt (z.readCtx 0).kp ∧
    ((o.readCtx 0).calibrated = false ∧ (o.readCtx 0).kt.Normalized ∧
      (o.readCtx 0).kp.Normalized ∧ (o.readCtx 0).kt.mant ≠ 0 ∧ (o.readCtx 0).kp.mant ≠ 0) ∧
    (∀ r : Vector Word 9, r[5].toInt = 1307 → ¬∃ n, IsScaledSet n r (o.readCtx 0).kt (o.readCtx 0).kp) ∧
    ((inCtx calibratedContext).readCtx 0).calibrated = true ∧
    ((State.reset.readCtx 1).calibrated = false ∧ (State.reset.readCtx 1).kt.mant = 0) := by
  refine ⟨by decide +kernel, by decide +kernel, ?_, by decide +kernel, fun r hr => fun ⟨n, hn⟩ => tinyScale_overflows n r hr hn,
    by decide +kernel, by decide +kernel⟩
  have one : ∀ k : SoftFloat, IsTrunc31 SoftFloat.zero (0 / k.val) := fun k => by rw [zero_div]; exact zero_is_trunc
  have two : ∀ k : SoftFloat, IsTrunc31 SoftFloat.zero (SoftFloat.zero.val / k.val) := fun k => by
    rw [val_zero]; exact one k
  have last : IsTrunc31 SoftFloat.zero SoftFloat.zero.val := by rw [val_zero]; exact zero_is_trunc
  have hz : ((((Vector.replicate 9 0 : Vector Word 9)[0]).toInt : ℤ) : ℚ) = 0 := rfl
  exact ⟨zero_is_trunc, ⟨_, one _, last⟩, zero_is_trunc, ⟨_, one _, last⟩, ⟨_, one _, last⟩,
    ⟨_, one _, _, two _, last⟩, ⟨_, one _, _, two _, last⟩, ⟨_, one _, _, two _, _, two _, last⟩,
    ⟨_, one _, _, two _, _, two _, last⟩⟩

theorem witness_CgetReadsTheNamedPlace :
    ((8#4).toNat ≤ 8 ∧ 0x250 = 0x140 + 0x100 * (1 : CtxId).val + 2 * (8#4).toNat) ∧
    (9 ≤ (9#4).toNat ∧ (9#4).toNat ≤ 12 ∧ 0x104 = 0x104 + 0x100 * (0 : CtxId).val + 2 * ((9#4).toNat - 9)) ∧
    (9 ≤ (12#4).toNat ∧ (12#4).toNat ≤ 12 ∧ 0x20A = 0x104 + 0x100 * (1 : CtxId).val + 2 * ((12#4).toNat - 9)) ∧
    13 ≤ (13#4).toNat := by decide

/-- Coefficients whose first product has no SoftFloat. -/
def hugeCoefs : Context :=
  { calibratedContext with c := sampleScaled.set 1 huge, rawt := #v[0x7F, 0xFF, 0xFF] }

theorem hugeCoefs_overflow (T P : SoftFloat) (raw : Int) : ¬IsCompensation hugeCoefs.c 8388607 raw T P := by
  rintro ⟨t, _, m, _, _, _, _, _, _, _, _, _, _, ht, -, hm, -⟩
  have h1 := half_le_trunc ht
  refine no_trunc31 (e := huge.exp.toInt + 30 + 1) (by decide) ?_ ⟨m, hm⟩
  rw [show hugeCoefs.c[1] = huge from rfl, abs_mul, val_power huge rfl, zpow_add₀ (by norm_num),
    abs_of_pos (show (0 : ℚ) < 2 ^ (huge.exp.toInt + 30) by positivity)]
  refine mul_le_mul_of_nonneg_left ?_ (by positivity)
  norm_num at h1 ⊢
  linarith

theorem witness_CompEvaluatesThePolynomials :
    let s := inCtx calibratedContext
    let z := inCtx { calibratedContext with
      c := Vector.replicate 9 SoftFloat.zero, rawt := Vector.replicate 3 0, rawp := Vector.replicate 3 0 }
    let o := inCtx hugeCoefs
    ((s.readCtx 0).calibrated = true ∧ (s.readCtx 0).PlacesNormalized ∧
      ∀ i : Fin 9, ((s.readCtx 0).c[i.val]).InnerExponent) ∧
    ((z.readCtx 0).calibrated = true ∧ (z.readCtx 0).PlacesNormalized ∧ (z.readCtx 0).rawt = Vector.replicate 3 0 ∧
      (z.readCtx 0).rawp = Vector.replicate 3 0) ∧
    IsCompensation (z.readCtx 0).c (adcValue (z.readCtx 0).rawt) (adcValue (z.readCtx 0).rawp) SoftFloat.zero
      SoftFloat.zero ∧
    ((o.readCtx 0).calibrated = true ∧ (o.readCtx 0).PlacesNormalized) ∧
    (¬∃ T P, IsCompensation (o.readCtx 0).c (adcValue (o.readCtx 0).rawt) (adcValue (o.readCtx 0).rawp) T P) ∧
    (State.reset.readCtx 0).calibrated = false := by
  have mul : IsTrunc31 SoftFloat.zero (SoftFloat.zero.val * SoftFloat.zero.val) := by
    rw [val_zero, zero_mul]; exact zero_is_trunc
  have add : IsTrunc31 SoftFloat.zero (alignedSum SoftFloat.zero SoftFloat.zero) := by
    rw [alignedSum_zero, val_zero]; exact zero_is_trunc
  refine ⟨by decide +kernel, by decide +kernel, ?_, by decide +kernel, fun ⟨T, P, h⟩ => hugeCoefs_overflow T P _ h,
    by decide +kernel⟩
  exact ⟨_, _, _, _, _, _, _, _, _, _, _, _, _, zero_is_trunc, zero_is_trunc, mul, add, mul, add, mul, add, mul, add, mul,
    add, mul, mul, add⟩

/-! #### Pipeline -/

/-- The reset depths, and the last exponent that head room 15 leaves in range. -/
theorem witness_PfeedPrimesThePipeline :
    let s := inCtx { sampledContext with fcfg := 0x000F0505, pcomp := ⟨0x40000000, 2147483632⟩ }
    (s.readCtx 0).compvalid = true ∧ (s.readCtx 0).primed = false ∧ (s.readCtx 0).fcfg.toNat % 32 ≤ 5 ∧
    (s.readCtx 0).fcfg.toNat / 256 % 32 ≤ 5 ∧
    (s.readCtx 0).pcomp.exp.toInt + ((s.readCtx 0).fcfg.toNat / 65536 % 16 : Nat) ≤ 2147483647 := by decide +kernel

theorem witness_PfeedPushesBothFilters :
    let s := inCtx primedContext
    let z := inCtx { primedContext with pcomp := SoftFloat.zero }
    (s.readCtx 0).compvalid = true ∧ (s.readCtx 0).primed = true ∧ (s.readCtx 0).shal.Consistent ∧
    (s.readCtx 0).deep.Consistent ∧ (s.readCtx 0).pcomp.mant ≠ 0 ∧
    (s.readCtx 0).pcomp.exp.toInt ≤ (s.readCtx 0).fexp.toInt ∧
    (z.readCtx 0).compvalid = true ∧ (z.readCtx 0).primed = true ∧ (z.readCtx 0).shal.Consistent ∧
    (z.readCtx 0).deep.Consistent ∧ (z.readCtx 0).pcomp.mant = 0 := by decide +kernel

theorem witness_PfeedFaultsInOrder :
    let depth := inCtx { sampledContext with fcfg := 0x00000306 }
    let range := inCtx { sampledContext with fcfg := 0x000F0503, pcomp := ⟨0x40000000, 2147483633⟩ }
    let above := inCtx { primedContext with pcomp := ⟨0x40000000, -13⟩ }
    (State.reset.readCtx 0).compvalid = false ∧
    ((depth.readCtx 0).compvalid = true ∧ (depth.readCtx 0).primed = false ∧ 5 < (depth.readCtx 0).fcfg.toNat % 32) ∧
    ((range.readCtx 0).compvalid = true ∧ (range.readCtx 0).primed = false ∧ (range.readCtx 0).fcfg.toNat % 32 ≤ 5 ∧
      (range.readCtx 0).fcfg.toNat / 256 % 32 ≤ 5 ∧
      2147483647 < (range.readCtx 0).pcomp.exp.toInt + ((range.readCtx 0).fcfg.toNat / 65536 % 16 : Nat)) ∧
    ((above.readCtx 0).compvalid = true ∧ (above.readCtx 0).primed = true ∧ (above.readCtx 0).pcomp.mant ≠ 0 ∧
      (above.readCtx 0).fexp.toInt < (above.readCtx 0).pcomp.exp.toInt) := by decide +kernel

/-- No SoftFloat but `ZERO` has a magnitude below `2^30 * 2^(-2^31)`. -/
theorem below_range {w e : Word} {n : Nat} (hw : w.toInt = 2 ^ n) (he : e.toInt + n < -2147483618) :
    ¬∃ q : SoftFloat, q.Normalized ∧ q.val = (w.toInt : ℚ) * 2 ^ e.toInt := by
  rintro ⟨q, hq, hv⟩
  rw [hw, Int.cast_pow, Int.cast_ofNat, ← zpow_natCast, ← zpow_add₀ (by norm_num), add_comm] at hv
  have hp : (0 : ℚ) < 2 ^ q.exp.toInt := by positivity
  rcases hq with rfl | ⟨hm, -⟩
  · rw [val_zero] at hv
    exact absurd hv.symm (zpow_pos (by norm_num) _).ne'
  · have hlo : (2 : ℚ) ^ (30 : ℤ) ≤ |(q.mant.toInt : ℚ)| := by
      rw [← Int.cast_abs, Int.abs_eq_natAbs]; exact_mod_cast hm
    have h : (2 : ℚ) ^ (30 + q.exp.toInt) ≤ 2 ^ (e.toInt + n) := by
      rw [← hv, zpow_add₀ (by norm_num), ← abs_of_pos (show 0 < q.val by rw [hv]; positivity), SoftFloat.val, abs_mul,
        abs_of_pos hp]
      exact mul_le_mul_of_nonneg_right hlo hp.le
    have h1 := (zpow_le_zpow_iff_right₀ (by norm_num)).mp h
    have h2 := (word_toInt_range q.exp).1
    omega

/-- Head room 15 and windows of 2, primed by the smallest SoftFloat and then fed `ZERO`: the average is too small for a
SoftFloat. -/
def faintContext : Context :=
  let filter := firPush (firNew Fir.reset 1 0x8000) 0
  { sampledContext with
    primed := true, fcfg := 0x000F0101, pcomp := SoftFloat.zero, fexp := 0x8000000F, shal := filter, deep := filter }

theorem faint_average : faintContext.shal.avg.toInt = 2 ^ 14 ∧ faintContext.deep.avg.toInt = 2 ^ 14 ∧
    faintContext.fexp.toInt + (14 : Nat) < -2147483618 := by decide +kernel

/-- Priming with `tiny` and a feed of `ZERO` lead to the faint context. -/
theorem faintContext_reached :
    ((after (.pfeed 0) (inCtx { sampledContext with fcfg := 0x000F0101, pcomp := tiny })).bind fun u =>
      after (.pfeed 0) (u.writeCtx 0 { u.readCtx 0 with pcomp := SoftFloat.zero })) =
    some { inCtx faintContext with response := some .ok } := by decide +kernel

/-- A sample, both ends of the completing exponents, the fault below them, and the fault above them. -/
theorem witness_FilterReadsAreExact :
    let s := inCtx primedContext
    let lo := inCtx { primedContext with fexp := 0x8000001E }
    let hi := inCtx { primedContext with fexp := 2147483646 }
    let top := inCtx { primedContext with fexp := 2147483647 }
    let faint := inCtx faintContext
    let o := inCtx { primedContext with
      fexp := 2147483647
      shal := { primedContext.shal with avg := 0x80000000 }
      deep := { primedContext.deep with avg := 0x80000000 } }
    ((s.readCtx 0).primed = true ∧ (⟨0x5BF9F4A4, -14⟩ : SoftFloat).Normalized ∧
      (⟨0x5BF9F4A4, -14⟩ : SoftFloat).val =
        ((s.readCtx 0).shal.avg.toInt : ℚ) * 2 ^ (s.readCtx 0).fexp.toInt ∧
      (⟨0x5BF9F4A4, -14⟩ : SoftFloat).val =
        ((s.readCtx 0).deep.avg.toInt : ℚ) * 2 ^ (s.readCtx 0).fexp.toInt) ∧
    ((o.readCtx 0).primed = true ∧
      (¬∃ q : SoftFloat, q.Normalized ∧
        q.val = ((o.readCtx 0).shal.avg.toInt : ℚ) * 2 ^ (o.readCtx 0).fexp.toInt) ∧
      ¬∃ q : SoftFloat, q.Normalized ∧
        q.val = ((o.readCtx 0).deep.avg.toInt : ℚ) * 2 ^ (o.readCtx 0).fexp.toInt) ∧
    ((faint.readCtx 0).Inv ∧ (faint.readCtx 0).primed = true ∧
      (¬∃ q : SoftFloat, q.Normalized ∧
        q.val = ((faint.readCtx 0).shal.avg.toInt : ℚ) * 2 ^ (faint.readCtx 0).fexp.toInt) ∧
      ¬∃ q : SoftFloat, q.Normalized ∧
        q.val = ((faint.readCtx 0).deep.avg.toInt : ℚ) * 2 ^ (faint.readCtx 0).fexp.toInt) ∧
    ((lo.readCtx 0).primed = true ∧ -2147483618 ≤ (lo.readCtx 0).fexp.toInt ∧ (lo.readCtx 0).fexp.toInt ≤ 2147483646) ∧
    ((hi.readCtx 0).primed = true ∧ -2147483618 ≤ (hi.readCtx 0).fexp.toInt ∧ (hi.readCtx 0).fexp.toInt ≤ 2147483646) ∧
    ((top.readCtx 0).primed = true ∧ -2147483618 ≤ (top.readCtx 0).fexp.toInt ∧
      (top.readCtx 0).fexp.toInt = 2147483647 ∧ (top.readCtx 0).shal.avg.toInt ≠ -2147483648 ∧
      (top.readCtx 0).deep.avg.toInt ≠ -2147483648) ∧
    (State.reset.readCtx 0).primed = false :=
  ⟨⟨by decide +kernel, by decide +kernel, rfl, rfl⟩, ⟨by decide +kernel, above_range, above_range⟩,
    ⟨by decide +kernel, by decide +kernel, below_range faint_average.1 faint_average.2.2,
      below_range faint_average.2.1 faint_average.2.2⟩,
    by decide +kernel, by decide +kernel, by decide +kernel, by decide +kernel⟩

theorem witness_PsnapCopiesThePair :
    let s := inCtx primedContext
    ((6 : XReg).val + 1 < 8 ∧ (s.readCtx 0).primed = true) ∧
    (∃ u t v, exec (.psnap 6 0 .deep) s = .next u ∧ exec (.ffrom 0 6 7) u = .next t ∧ exec (.pdeep 0 0) s = .next v) ∧
    (∃ u t v, exec (.psnap 6 0 .shallow) s = .next u ∧ exec (.ffrom 0 6 7) u = .next t ∧
      exec (.pshal 0 0) s = .next v) ∧
    (7 : XReg).val = 7 ∧ ((6 : XReg).val < 7 ∧ (State.reset.readCtx 0).primed = false) :=
  ⟨by decide +kernel, ⟨_, _, _, rfl, rfl, rfl⟩, ⟨_, _, _, rfl, rfl, rfl⟩, rfl, by decide +kernel⟩

/-- Both contexts primed. -/
def bothPrimed : State := (inCtx primedContext).writeCtx 1 primedContext

theorem witness_AdiffSubtractsTheDeepValues :
    let o := bothPrimed.writeCtx 1
      { primedContext with fexp := 2147483647, deep := { primedContext.deep with avg := 0x80000000 } }
    ((bothPrimed.readCtx 0).primed = true ∧ (bothPrimed.readCtx 1).primed = true ∧
      (-(2 ^ 29) ≤ (bothPrimed.readCtx 0).fexp.toInt ∧ (bothPrimed.readCtx 0).fexp.toInt ≤ 2 ^ 29) ∧
      (-(2 ^ 29) ≤ (bothPrimed.readCtx 1).fexp.toInt ∧ (bothPrimed.readCtx 1).fexp.toInt ≤ 2 ^ 29)) ∧
    IsPressureDifference SoftFloat.zero (bothPrimed.readCtx 1) (bothPrimed.readCtx 0) ∧
    ((o.readCtx 1).primed = true ∧ (o.readCtx 0).primed = true ∧
      ¬∃ q, IsPressureDifference q (o.readCtx 1) (o.readCtx 0)) ∧
    (((inCtx primedContext).readCtx 0).primed = false ∨ ((inCtx primedContext).readCtx 1).primed = false) := by
  refine ⟨by decide +kernel, ?_, ⟨by decide +kernel, by decide +kernel, ?_⟩, by decide +kernel⟩
  · refine ⟨⟨0x5BF9F4A4, -14⟩, ⟨0x5BF9F4A4, -14⟩, by decide +kernel, by decide +kernel, rfl, rfl, ?_⟩
    rw [show alignedSum ⟨0x5BF9F4A4, -14⟩ (SoftFloat.neg ⟨0x5BF9F4A4, -14⟩) = 0 from ?_]
    · exact zero_is_trunc
    · rw [alignedSum, if_neg (by decide), if_neg (by decide +kernel), if_pos (by decide +kernel),
        mul_eq_zero_of_left]
      rw [Int.cast_eq_zero]
      decide +kernel
  · rintro ⟨q, a, b, ha, -, hv, -⟩
    exact above_range ⟨a, ha, hv⟩

/-- The two scales of 95_test_vectors.md section 7.4 row 5, and the ends of the completing exponents. -/
theorem witness_EqualPressuresGiveZero :
    let s := bothPrimed.writeCtx 1
      { primedContext with fexp := -13, deep := { primedContext.deep with avg := 0x2DFCFA52 } }
    let lo := inCtx { primedContext with fexp := 0x8000001E }
    let hi := inCtx { primedContext with fexp := 2147483646 }
    let top := inCtx { primedContext with fexp := 2147483647 }
    ((s.readCtx 1).primed = true ∧ (s.readCtx 0).primed = true ∧
      ((s.readCtx 1).deep.avg.toInt : ℚ) * 2 ^ (s.readCtx 1).fexp.toInt =
        ((s.readCtx 0).deep.avg.toInt : ℚ) * 2 ^ (s.readCtx 0).fexp.toInt ∧
      (⟨0x5BF9F4A4, -14⟩ : SoftFloat).Normalized ∧
      (⟨0x5BF9F4A4, -14⟩ : SoftFloat).val = ((s.readCtx 1).deep.avg.toInt : ℚ) * 2 ^ (s.readCtx 1).fexp.toInt) ∧
    ((lo.readCtx 0).primed = true ∧ (lo.readCtx 0).fexp.toInt = -2147483618) ∧
    ((hi.readCtx 0).primed = true ∧ (hi.readCtx 0).fexp.toInt = 2147483646) ∧
    ((top.readCtx 0).primed = true ∧ (top.readCtx 0).fexp.toInt = 2147483647 ∧
      (top.readCtx 0).deep.avg.toInt ≠ -2147483648) := by
  have scaled : ((0x2DFCFA52#32).toInt : ℚ) * 2 ^ (-13#32).toInt = ((0x5BF9F4A4#32).toInt : ℚ) * 2 ^ (-14#32).toInt := by
    rw [show (0x2DFCFA52#32).toInt = 771553874 by decide, show (0x5BF9F4A4#32).toInt = 1543107748 by decide,
      show (-13#32).toInt = -13 by decide, show (-14#32).toInt = -14 by decide]
    norm_num
  exact ⟨⟨by decide +kernel, by decide +kernel, scaled, by decide +kernel, scaled.symm⟩, by decide +kernel,
    by decide +kernel, by decide +kernel⟩

/-- Head room 0 and 15. -/
theorem witness_FirstSampleIsReturnedExactly :
    let s := inCtx sampledContext
    let h := inCtx { sampledContext with fcfg := 0x000F0503 }
    ((s.readCtx 0).Inv ∧ (s.readCtx 0).compvalid = true ∧ (s.readCtx 0).primed = false ∧
      (s.readCtx 0).fcfg.toNat / 65536 % 16 = 0 ∧ ∃ u, exec (.pfeed 0) s = .next u ∧ u.response = some .ok) ∧
    ((h.readCtx 0).Inv ∧ (h.readCtx 0).compvalid = true ∧ (h.readCtx 0).primed = false ∧
      (h.readCtx 0).fcfg.toNat / 65536 % 16 = 15 ∧ ∃ u, exec (.pfeed 0) h = .next u ∧ u.response = some .ok) :=
  ⟨⟨by decide +kernel, by decide +kernel, by decide +kernel, by decide +kernel, ⟨_, rfl, rfl⟩⟩,
    ⟨by decide +kernel, by decide +kernel, by decide +kernel, by decide +kernel, ⟨_, rfl, rfl⟩⟩⟩

/-! #### The port, reset, the invariant -/

theorem witness_RegisterMapIsOneToOne : portMap 0x2BF = some (.slot (.deep 1) 31) := rfl

theorem witness_PortWritesShowWhereWritten :
    portMap 0x122 = none ∧ portMap 0x102 = some (.pstat 0) ∧ (PortReg.pstat 0).access = .ro ∧
    (0x008 ≤ 0x00F ∧ 0x00F < 0x010) ∧ (0x110 ≤ 0x121 ∧ 0x121 < 0x122) ∧ (0x228 ≤ 0x22A ∧ 0x22A < 0x22B) := by decide

theorem witness_StatusIsWriteOneToClear : { State.reset with status := 0x7FE, fcause := 10 }.RecordLegal := by
  decide +kernel

theorem witness_PortTransactionsTakeEffectAlone :
    { State.reset with pending := [.read 0x2FF] }.pending = .read 0x2FF :: [] ∧
    { State.reset with pending := [.write 1 5] }.pending = .write 1 5 :: [] ∧
    portMap 0x2FF = none ∧ portMap 0x300 = none ∧ portMap 0x020 = some (.mant (.f 0)) ∧
    (PortReg.mant (.f 0)).access = .ro := ⟨rfl, rfl, rfl, rfl, rfl, rfl⟩

theorem witness_EveryRunGoesOn : State.reset.pending = [] := rfl

theorem witness_ResetInputRestoresEverything :
    { inCtx primedContext with pending := [.reset] }.pending = .reset :: [] := rfl

/-- A state with a calibrated, sampled and primed context, about to take its next sample. -/
theorem witness_EveryStepKeepsTheInvariant :
    let s := (inCtx primedContext).withCommand (encode (.pfeed 0))
    s.Inv ∧ ∃ t, step s = .next t := ⟨by decide +kernel, ⟨_, rfl⟩⟩

theorem witness_HostFloatsRoundTrip :
    f32Finite 0x00000001 = true ∧ f32Finite 0x80000000 = true ∧ f32Finite 0x7F7FFFFF = true ∧
    f32Finite 0x7F800000 = false := by decide

end Sys2Proof.Tests
end

section
/-! What one command can do to the state: the inversion of `exec`, and of a step as one context sees it. -/

namespace Sys2Proof.Machine

/-! ### The contexts -/

/-- A write of one context as every context sees it: `R k` relates what context `k` held to what it is given. -/
theorem State.readCtx_writeCtx_cases (R : CtxId → Context → Context → Prop) {s : State} {j : CtxId} {c : Context}
    (h : R j (s.readCtx j) c) (k : CtxId) :
    (s.writeCtx j c).readCtx k = s.readCtx k ∨ R k (s.readCtx k) ((s.writeCtx j c).readCtx k) := by
  by_cases hk : j = k
  · subst hk
    exact .inr (by rwa [State.readCtx_writeCtx_same])
  · exact .inl (s.readCtx_writeCtx_other j k c hk)

/-- What a command that completes may put in place of the context `k` it names (R33 to R40): one constructor per command
that writes a context. The calibration commands write an uncalibrated context only (R39). -/
inductive ContextWrite (k : CtxId) (c : Context) : Instr → Context → Prop where
  | ldb (idx : BitVec 8) (byte : Byte) : ContextWrite k c (.ldb k idx byte) (c.storeByte idx.toNat byte)
  | ksel (unlocked : c.calibrated = false) (kt kp : SoftFloat) :
      ContextWrite k c (.ksel k) { c with kt := kt, kp := kp }
  | kset (unlocked : c.calibrated = false) (fa : FReg) (ch : Channel) (v : SoftFloat) :
      ContextWrite k c (.kset k fa ch) (c.setScale v ch)
  | cinit (unlocked : c.calibrated = false) (craw : Vector Word 9) (coefs : Vector SoftFloat 9) :
      ContextWrite k c (.cinit k) { c with craw := craw, c := coefs, calibrated := true }
  | comp (tcomp pcomp : SoftFloat) :
      ContextWrite k c (.comp k) { c with tcomp := tcomp, pcomp := pcomp, compvalid := true }
  | pfeed (fexp : Word) (shal deep : Fir) :
      ContextWrite k c (.pfeed k) { c with fexp := fexp, shal := shal, deep := deep, primed := true }
  | preset : ContextWrite k c (.preset k) c.resetPipeline

/-- What a port write may put in place of a context (R53, R55). -/
inductive ContextStore (c : Context) : Context → Prop where
  | mcfg (v : Word) : ContextStore c { c with mcfg := v }
  | fcfg (v : Word) : ContextStore c { c with fcfg := v }
  | coef (v : Vector Byte 18) : ContextStore c { c with coef := v }
  | rawt (v : Vector Byte 3) : ContextStore c { c with rawt := v }
  | rawp (v : Vector Byte 3) : ContextStore c { c with rawp := v }

/-- A byte store is a port write of one of the byte buffers, or stores nothing (R214). -/
theorem Context.storeByte_cases (c : Context) (idx : Nat) (v : Byte) :
    c.storeByte idx v = c ∨ ContextStore c (c.storeByte idx v) := by
  unfold Context.storeByte
  split
  · exact .inr (.coef _)
  split
  · exact .inr (.rawt _)
  split
  · exact .inr (.rawp _)
  · exact .inl rfl

/-- CINIT completes on an uncalibrated context only and writes the coefficients and the flag (R39, R167). -/
theorem calibrate_ok {p : Params} {c c' : Context} (h : calibrate p c = .ok c') :
    c.calibrated = false ∧ ∃ craw coefs, c' = { c with craw := craw, c := coefs, calibrated := true } := by
  obtain ⟨hlock, h⟩ := (require_bind_eq_ok_iff _ _ _ _).mp h
  obtain ⟨-, h⟩ := (require_bind_eq_ok_iff _ _ _ _).mp h
  obtain ⟨coefs, -, h⟩ := (except_bind_eq_ok_iff _ _ _).mp h
  cases h
  exact ⟨by simpa using hlock, _, coefs, rfl⟩

/-- COMP writes the two results and their flag (R182). -/
theorem compensate_ok {c c' : Context} (h : compensate c = .ok c') :
    ∃ tcomp pcomp, c' = { c with tcomp := tcomp, pcomp := pcomp, compvalid := true } := by
  obtain ⟨-, h⟩ := (require_bind_eq_ok_iff _ _ _ _).mp h
  obtain ⟨_, -, h⟩ := (except_bind_eq_ok_iff _ _ _).mp h
  obtain ⟨_, -, h⟩ := (except_bind_eq_ok_iff _ _ _).mp h
  obtain ⟨tcomp, -, h⟩ := (except_bind_eq_ok_iff _ _ _).mp h
  obtain ⟨pcomp, -, h⟩ := (except_bind_eq_ok_iff _ _ _).mp h
  cases h
  exact ⟨tcomp, pcomp, rfl⟩

/-- A priming PFEED writes the pipeline alone (R191, R192). -/
theorem prime_ok {c c' : Context} (h : prime c = .ok c') :
    ∃ fexp shal deep, c' = { c with fexp := fexp, shal := shal, deep := deep, primed := true } := by
  obtain ⟨_, -, h⟩ := (except_bind_eq_ok_iff _ _ _).mp h
  obtain ⟨_, -, h⟩ := (except_bind_eq_ok_iff _ _ _).mp h
  obtain ⟨-, h⟩ := (require_bind_eq_ok_iff _ _ _ _).mp h
  cases h
  exact ⟨_, _, _, rfl⟩

/-- PFEED of a primed context writes the two filters alone (R190, R192). -/
theorem feedPrimed_ok {c c' : Context} (h : feedPrimed c = .ok c') :
    ∃ shal deep, c' = { c with shal := shal, deep := deep } := by
  obtain ⟨_, -, h⟩ := (except_bind_eq_ok_iff _ _ _).mp h
  cases h
  exact ⟨_, _, rfl⟩

/-- PFEED writes the pipeline of the context alone and leaves it primed (R192). -/
theorem feed_ok {c c' : Context} (h : feed c = .ok c') :
    ∃ fexp shal deep, c' = { c with fexp := fexp, shal := shal, deep := deep, primed := true } := by
  obtain ⟨-, h⟩ := (require_bind_eq_ok_iff _ _ _ _).mp h
  split at h
  case isTrue hprimed =>
    obtain ⟨shal, deep, rfl⟩ := feedPrimed_ok h
    exact ⟨c.fexp, shal, deep, by rw [← hprimed]⟩
  case isFalse => exact prime_ok h

/-- A command writes the context it names. -/
theorem ContextWrite.writtenContext {k : CtxId} {c c' : Context} {i : Instr} (h : ContextWrite k c i c') :
    writtenContext i = some k := by
  cases h <;> rfl

/-- A port write leaves the scale factors and the coefficients (R39, R53). -/
theorem ContextStore.calibration {c c' : Context} (h : ContextStore c c') :
    c'.kt = c.kt ∧ c'.kp = c.kp ∧ c'.craw = c.craw ∧ c'.c = c.c := by
  cases h <;> exact ⟨rfl, rfl, rfl, rfl⟩

/-- A port write leaves the pipeline filters and the pipeline exponent (R40, R53). -/
theorem ContextStore.pipeline {c c' : Context} (h : ContextStore c c') :
    c'.shal = c.shal ∧ c'.deep = c.deep ∧ c'.fexp = c.fexp := by
  cases h <;> exact ⟨rfl, rfl, rfl⟩

/-- A command leaves the scale factors and the coefficients of a calibrated context: the ones that write them need it
uncalibrated (R39). -/
theorem ContextWrite.calibration {k : CtxId} {c c' : Context} {i : Instr} (h : ContextWrite k c i c')
    (hlocked : c.calibrated = true) : c'.kt = c.kt ∧ c'.kp = c.kp ∧ c'.craw = c.craw ∧ c'.c = c.c := by
  cases h
  case ldb idx byte =>
    rcases c.storeByte_cases idx.toNat byte with heq | hstore
    · rw [heq]; exact ⟨rfl, rfl, rfl, rfl⟩
    · exact hstore.calibration
  case ksel unlocked _ _ | kset unlocked _ _ _ | cinit unlocked _ _ => simp [hlocked] at unlocked
  case comp | pfeed | preset => exact ⟨rfl, rfl, rfl, rfl⟩

/-- A command other than PFEED and PRESET leaves the pipeline filters and the pipeline exponent (R40). -/
theorem ContextWrite.pipeline {k : CtxId} {c c' : Context} {i : Instr} (h : ContextWrite k c i c')
    (hfeed : i ≠ .pfeed k) (hreset : i ≠ .preset k) :
    c'.shal = c.shal ∧ c'.deep = c.deep ∧ c'.fexp = c.fexp := by
  cases h
  case ldb idx byte =>
    rcases c.storeByte_cases idx.toNat byte with heq | hstore
    · rw [heq]; exact ⟨rfl, rfl, rfl⟩
    · exact hstore.pipeline
  case kset _ ch _ => cases ch <;> exact ⟨rfl, rfl, rfl⟩
  case ksel | cinit | comp => exact ⟨rfl, rfl, rfl⟩
  case pfeed => exact absurd rfl hfeed
  case preset => exact absurd rfl hreset

/-! ### The commands -/

/-- The state a command that completes may leave, before its response: nothing written (NOP), the fault record cleared
(FCLR), one or two integer registers, a SoftFloat register, a filter unit, or the context it names. -/
inductive Effect (s : State) : Instr → State → Prop where
  | none : Effect s .nop s
  | clear : Effect s .fclr s.clearFaults
  | x {i : Instr} (names : writtenContext i = .none) (xd : XReg) (v : Word) : Effect s i (s.writeX xd v)
  | pair {i : Instr} (names : writtenContext i = .none) (xd xe : XReg) (v w : Word) :
      Effect s i ((s.writeX xd v).writeX xe w)
  | f {i : Instr} (names : writtenContext i = .none) (fd : FReg) (v : SoftFloat) : Effect s i (s.writeF fd v)
  | iir {i : Instr} (names : writtenContext i = .none) (u : UnitId) (v : Iir) : Effect s i (s.writeIir u v)
  | fir {i : Instr} (names : writtenContext i = .none) (u : UnitId) (v : Fir) : Effect s i (s.writeFir u v)
  | ctx {i : Instr} {k : CtxId} {c : Context} (write : ContextWrite k (s.readCtx k) i c) :
      Effect s i (s.writeCtx k c)

/-- A computed value stored in a SoftFloat register. -/
theorem effect_of_map_writeF {s u : State} {i : Instr} {fd : FReg} {m : Except Cause SoftFloat}
    (names : writtenContext i = none) (h : m.map (s.writeF fd) = .ok u) : Effect s i u := by
  obtain ⟨v, -, rfl⟩ := (except_map_eq_ok_iff _ _ _).mp h
  exact .f names fd v

/-- Every command is finished from one computation, and what that computation answers is an effect of the command. -/
theorem exec_effect (i : Instr) (s : State) :
    ∃ e : Except Cause State, exec i s = s.finish i e ∧ ∀ u, e = .ok u → Effect s i u := by
  cases i
  all_goals
    simp only [exec]
    refine ⟨_, rfl, fun u hu => ?_⟩
  -- system
  case nop => cases hu; exact .none
  case fclr => cases hu; exact .clear
  case xli | xlih => cases hu; exact .x rfl _ _
  case ldb k idx byte =>
    obtain ⟨-, hu⟩ := (require_bind_eq_ok_iff _ _ _ _).mp hu
    cases hu; exact .ctx (.ldb idx byte)
  -- SoftFloat
  case fadd | fsub | fmul | fdiv | fmuli | ffrom => exact effect_of_map_writeF rfl hu
  case fmov => cases hu; exact .f rfl _ _
  case fmant | fexp | fsign | msb | lsb => cases hu; exact .x rfl _ _
  -- filters
  case iirnew =>
    obtain ⟨_, -, hu⟩ := (except_bind_eq_ok_iff _ _ _).mp hu
    cases hu; exact .iir rfl _ _
  case iirpush =>
    obtain ⟨-, hu⟩ := (require_bind_eq_ok_iff _ _ _ _).mp hu
    cases hu; exact .iir rfl _ _
  case firnew =>
    obtain ⟨_, -, hu⟩ := (except_bind_eq_ok_iff _ _ _).mp hu
    cases hu; exact .fir rfl _ _
  case firpush =>
    obtain ⟨-, hu⟩ := (require_bind_eq_ok_iff _ _ _ _).mp hu
    cases hu; exact .fir rfl _ _
  case iiravg | firavg =>
    obtain ⟨-, hu⟩ := (require_bind_eq_ok_iff _ _ _ _).mp hu
    cases hu; exact .x rfl _ _
  -- calibration
  case cext =>
    split at hu <;> cases hu
    exact .x rfl _ _
  case ksel =>
    obtain ⟨hlock, hu⟩ := (require_bind_eq_ok_iff _ _ _ _).mp hu
    obtain ⟨kt, -, hu⟩ := (except_bind_eq_ok_iff _ _ _).mp hu
    obtain ⟨kp, -, hu⟩ := (except_bind_eq_ok_iff _ _ _).mp hu
    cases hu; exact .ctx (.ksel (by simpa using hlock) kt kp)
  case kset k fa ch =>
    obtain ⟨hlock, hu⟩ := (require_bind_eq_ok_iff _ _ _ _).mp hu
    cases hu; exact .ctx (.kset (by simpa using hlock) fa ch _)
  case cinit =>
    obtain ⟨c, hc, rfl⟩ := (except_map_eq_ok_iff _ _ _).mp hu
    obtain ⟨unlocked, craw, coefs, rfl⟩ := calibrate_ok hc
    exact .ctx (.cinit unlocked craw coefs)
  case cget =>
    split at hu <;> cases hu
    exact .f rfl _ _
  -- compensation
  case adcext => cases hu; exact .x rfl _ _
  case comp =>
    obtain ⟨c, hc, rfl⟩ := (except_map_eq_ok_iff _ _ _).mp hu
    obtain ⟨tcomp, pcomp, rfl⟩ := compensate_ok hc
    exact .ctx (.comp tcomp pcomp)
  -- pipeline
  case pfeed =>
    obtain ⟨c, hc, rfl⟩ := (except_map_eq_ok_iff _ _ _).mp hu
    obtain ⟨fexp, shal, deep, rfl⟩ := feed_ok hc
    exact .ctx (.pfeed fexp shal deep)
  case pshal | pdeep =>
    obtain ⟨-, hu⟩ := (require_bind_eq_ok_iff _ _ _ _).mp hu
    obtain ⟨_, -, hu⟩ := (except_bind_eq_ok_iff _ _ _).mp hu
    cases hu; exact .f rfl _ _
  case psnap =>
    split at hu
    case isTrue =>
      obtain ⟨-, hu⟩ := (require_bind_eq_ok_iff _ _ _ _).mp hu
      cases hu; exact .pair rfl _ _ _ _
    case isFalse => cases hu
  case adiff => exact effect_of_map_writeF rfl hu
  case preset => cases hu; exact .ctx .preset

/-- Everything a command can end in: one of its effects with the response `ok`, or the fault record (R17, R231). -/
theorem exec_cases {i : Instr} {s t : State} (h : exec i s = .next t) :
    (∃ u, Effect s i u ∧ t = u.respond .ok) ∨ ∃ c, t = s.raise c (encode i) := by
  obtain ⟨e, hexec, heffect⟩ := exec_effect i s
  rw [hexec, State.finish_next_iff] at h
  obtain ⟨u, he, rfl⟩ | ⟨c, -, rfl⟩ := h
  · exact .inl ⟨u, heffect u he, rfl⟩
  · exact .inr ⟨c, rfl⟩

/-- A context after a command that completes: the one it had, or one the command writes in its place. -/
theorem Effect.readCtx {s u : State} {i : Instr} (h : Effect s i u) (k : CtxId) :
    u.readCtx k = s.readCtx k ∨ ContextWrite k (s.readCtx k) i (u.readCtx k) := by
  cases h
  case ctx write => exact State.readCtx_writeCtx_cases (fun k c c' => ContextWrite k c i c') write k
  case none | clear | x | pair | f | iir | fir => exact .inl rfl

/-- No command that completes writes `ERRCNT` (R29, R211). -/
theorem Effect.errcnt {s u : State} {i : Instr} (h : Effect s i u) : u.errcnt = s.errcnt := by
  cases h <;> rfl

/-- A context after a command: the one it had, a fault included, or one the command writes in its place. -/
theorem exec_readCtx {i : Instr} {s t : State} (h : exec i s = .next t) (k : CtxId) :
    t.readCtx k = s.readCtx k ∨ ContextWrite k (s.readCtx k) i (t.readCtx k) := by
  obtain ⟨u, heffect, rfl⟩ | ⟨c, rfl⟩ := exec_cases h
  · exact heffect.readCtx k
  · exact .inl rfl

/-! ### The port and the step -/

/-- A context after a port write. -/
theorem portWrite_readCtx (s : State) (r : Nat) (v : Word) (k : CtxId) :
    (s.portWrite r v).readCtx k = s.readCtx k ∨ ContextStore (s.readCtx k) ((s.portWrite r v).readCtx k) := by
  have written {j : CtxId} {c : Context} (hstore : ContextStore (s.readCtx j) c) :=
    State.readCtx_writeCtx_cases (fun _ => ContextStore) hstore k
  rcases portWrite_cases s r v with h | h | ⟨i, h⟩ | ⟨j, h | h | ⟨i, h⟩ | ⟨i, h⟩ | ⟨i, h⟩⟩ <;> rw [h]
  · exact .inl rfl
  · exact .inl rfl
  · exact .inl rfl
  · exact written (.mcfg _)
  · exact written (.fcfg _)
  · exact written (.coef _)
  · exact written (.rawt _)
  · exact written (.rawp _)

/-- No port write changes `ERRCNT` (R29, R55). -/
@[simp] theorem portWrite_errcnt (s : State) (r : Nat) (v : Word) : (s.portWrite r v).errcnt = s.errcnt := by
  rcases portWrite_cases s r v with h | h | ⟨i, h⟩ | ⟨j, h | h | ⟨i, h⟩ | ⟨i, h⟩ | ⟨i, h⟩⟩ <;> rw [h] <;> rfl

/-- Everything a step other than reset can do to one context: leave it, store into it through the port, or write it by a
command that names it. -/
theorem step_readCtx {s t : State} (h : step s = .next t) (hreset : ∀ rest, s.pending ≠ .reset :: rest) (k : CtxId) :
    t.readCtx k = s.readCtx k ∨ ContextStore (s.readCtx k) (t.readCtx k) ∨
      ∃ w rest i, s.pending = .write 0 w :: rest ∧ decode w = .ok i ∧
        ContextWrite k (s.readCtx k) i (t.readCtx k) := by
  rcases step_cases s with ⟨-, hs⟩ | ⟨w, rest, hp, hs⟩ | ⟨r, v, rest, -, -, hs⟩ | ⟨r, rest, -, hs⟩ | ⟨rest, hp, -⟩
  · obtain rfl : s = t := by simpa using hs.symm.trans h
    exact .inl rfl
  · rw [hs] at h
    rcases issue_cases w { s with pending := rest } with ⟨i, hdecode, hi⟩ | ⟨e, -, hi⟩
    · rcases exec_readCtx (hi.symm.trans h) k with hkeep | hwrite
      · exact .inl hkeep
      · exact .inr (.inr ⟨w, rest, i, hp, hdecode, hwrite⟩)
    · cases hi.symm.trans h
      exact .inl rfl
  · cases hs.symm.trans h
    rcases portWrite_readCtx { s with pending := rest } r v k with hkeep | hstore
    · exact .inl hkeep
    · exact .inr (.inl hstore)
  · cases hs.symm.trans h
    exact .inl rfl
  · exact absurd hp (hreset rest)

end Sys2Proof.Machine
end

section
/-! The statements about the state: calibration, isolation of the contexts, the fault count, the reset values. -/

namespace Sys2Proof.Machine

/-! ### Calibration (R39) -/

/-- KSEL, KSET and CINIT begin with the check of the lock, so on a calibrated context they raise `ConfigLocked` (R39). -/
theorem exec_calibration_locked (s : State) (k : CtxId) (fa : FReg) (ch : Channel)
    (h : (s.readCtx k).calibrated = true) :
    exec (.ksel k) s = .next (s.raise .configLocked (encode (.ksel k))) ∧
    exec (.kset k fa ch) s = .next (s.raise .configLocked (encode (.kset k fa ch))) ∧
    exec (.cinit k) s = .next (s.raise .configLocked (encode (.cinit k))) := by
  simp only [exec, execKsel, execKset, execCinit, calibrate, h]
  exact ⟨rfl, rfl, rfl⟩

/-- Settles O13: a step other than reset leaves a context, stores into it through the port, or writes it by a command, and
on a calibrated context none of these touches the calibration. -/
theorem calibrationIsImmutable : Obligations.CalibrationIsImmutable := by
  refine ⟨fun s t k h hreset hlocked => ?_, exec_calibration_locked⟩
  rcases step_readCtx h hreset k with hkeep | hstore | ⟨w, rest, i, -, -, hwrite⟩
  · rw [hkeep]; exact ⟨rfl, rfl, rfl, rfl⟩
  · exact hstore.calibration
  · exact hwrite.calibration hlocked

/-! ### Isolation of the contexts (R33, R40) -/

/-- Settles O14: a context a command changes is the one it names, and only PFEED and PRESET of it change its pipeline. -/
theorem contextsAreIsolated : Obligations.ContextsAreIsolated := by
  intro i s t k h
  rcases exec_readCtx h k with hkeep | hwrite
  · exact ⟨fun _ => hkeep, fun _ _ => by rw [hkeep]; exact ⟨rfl, rfl, rfl⟩⟩
  · exact ⟨fun hother => absurd hwrite.writtenContext hother, hwrite.pipeline⟩

/-! ### The fault count (R29) -/

theorem countFault_toNat (e : Word) : (countFault e).toNat = min (e.toNat + 1) (2 ^ 32 - 1) := by
  rw [countFault, BitVec.toNat_ofNat]
  omega

/-- `t` answers a transaction taken in `s` with the fault count R29 asks for: one up, saturating, on a fault, and as it
was otherwise. -/
def FaultCounted (s t : State) : Prop :=
  (∃ c, t.response = some (.fault c)) ∧ t.errcnt.toNat = min (s.errcnt.toNat + 1) (2 ^ 32 - 1) ∨
    (∀ c, t.response ≠ some (.fault c)) ∧ t.errcnt = s.errcnt

theorem faultCounted_raise (s : State) (c : Cause) (w : Word) : FaultCounted s (s.raise c w) :=
  .inl ⟨⟨c, rfl⟩, countFault_toNat s.errcnt⟩

theorem faultCounted_respond {s u : State} {r : Response} (hu : u.errcnt = s.errcnt) (hr : ∀ c, r ≠ .fault c) :
    FaultCounted s (u.respond r) :=
  .inr ⟨fun c h => hr c (by simpa using h), hu⟩

/-- Every command word counts its own fault and nothing else. -/
theorem issue_faultCounted {s t : State} {w : Word} (h : issue w s = .next t) : FaultCounted s t := by
  rcases issue_cases w s with ⟨i, -, hi⟩ | ⟨e, -, hi⟩
  · obtain ⟨u, heffect, rfl⟩ | ⟨c, rfl⟩ := exec_cases (hi.symm.trans h)
    · exact faultCounted_respond heffect.errcnt (by simp)
    · exact faultCounted_raise s c _
  · cases hi.symm.trans h
    exact faultCounted_raise s _ w

/-- Every step that takes a transaction counts its own fault and nothing else (R29). -/
theorem step_faultCounted {s t : State} (h : step s = .next t) (hreset : ∀ rest, s.pending ≠ .reset :: rest)
    (hbusy : s.pending ≠ []) : FaultCounted s t := by
  rcases step_cases s with ⟨hp, -⟩ | ⟨w, rest, -, hs⟩ | ⟨r, v, rest, -, -, hs⟩ | ⟨r, rest, -, hs⟩ | ⟨rest, hp, -⟩
  · exact absurd hp hbusy
  · exact issue_faultCounted (s := { s with pending := rest }) (hs.symm.trans h)
  · cases hs.symm.trans h
    exact faultCounted_respond (portWrite_errcnt _ r v) (by simp)
  · cases hs.symm.trans h
    exact faultCounted_respond rfl (by simp)
  · exact absurd hp (hreset rest)

/-- Settles O10: `ERRCNT` is register `0x004`, read-only at the port, and each transaction counts its own fault. -/
theorem errcntCountsTheFaults : Obligations.ErrcntCountsTheFaults :=
  ⟨rfl, fun _ _ => ⟨rfl, rfl⟩, fun _ _ => step_faultCounted⟩

/-! ### The reset values at the port (R43) -/

@[simp] theorem reset_readX (i : XReg) : State.reset.readX i = 0 := by simp [State.readX, State.reset]

@[simp] theorem reset_readF (i : FReg) : State.reset.readF i = SoftFloat.zero := by simp [State.readF, State.reset]

@[simp] theorem reset_readIir (u : UnitId) : State.reset.readIir u = Iir.reset := by simp [State.readIir, State.reset]

@[simp] theorem reset_readFir (u : UnitId) : State.reset.readFir u = Fir.reset := by simp [State.readFir, State.reset]

@[simp] theorem reset_readCtx (k : CtxId) : State.reset.readCtx k = Context.reset := by
  simp [State.readCtx, State.reset]

/-- Every SoftFloat place is `ZERO` after reset (R43). -/
@[simp] theorem reset_place (p : Place) : State.reset.place p = SoftFloat.zero := by
  cases p <;> simp [State.place, Context.reset]

/-- Every FIR unit, stand-alone or of a pipeline, is at its reset value after reset (R43). -/
@[simp] theorem reset_firUnit (u : FirUnit) : State.reset.firUnit u = Fir.reset := by
  cases u <;> simp [State.firUnit, Context.reset]

@[simp] theorem Iir.reset_word (w : FilterWord) : Iir.reset.word w = 0 := by cases w <;> rfl

@[simp] theorem Fir.reset_word (w : FilterWord) : Fir.reset.word w = 0 := by cases w <;> rfl

/-- `FCFG` of a context reads `0x00000503` after reset (R43). -/
theorem reset_regValue_fcfg (k : CtxId) : State.reset.regValue (.fcfg k) = 0x503#32 := by
  simp [State.regValue, Context.reset, Config.fcfgReset]

/-- Every other register reads 0 after reset (R43). -/
theorem reset_regValue {reg : PortReg} (h : ∀ k, reg ≠ .fcfg k) : State.reset.regValue reg = 0 := by
  cases reg
  case fcfg k => exact absurd rfl (h k)
  case cmd | status | fcause | fcmd | errcnt => rfl
  case x => exact reset_readX _
  case mant | exp => simp [State.regValue, SoftFloat.zero]
  case iir | fir => simp [State.regValue]
  case slot => simp [State.regValue, Fir.reset]
  case mcfg | fexp | craw => simp [State.regValue, Context.reset]
  case pstat => simp [State.regValue, Context.reset, pstatWord, flagBit]
  case coef | rawt | rawp => simp [State.regValue, Context.reset, zextByte]

theorem portMap_eq_fcfg_below : ∀ (n : Fin 0x300) (k : CtxId),
    portMap n.val = some (.fcfg k) ↔ n.val = 0x101 + 0x100 * k.val := by decide +kernel

/-- `FCFG` of context `k` is register `0x101 + 0x100 k` and no other (R53). -/
theorem portMap_eq_fcfg_iff (n : Nat) (k : CtxId) : portMap n = some (.fcfg k) ↔ n = 0x101 + 0x100 * k.val := by
  by_cases h : n < 0x300
  · exact portMap_eq_fcfg_below ⟨n, h⟩ k
  · have hk := k.isLt
    rw [portMap_outside n (by omega)]
    constructor
    · intro h'; cases h'
    · intro h'; omega

/-- A register number that is no context's `FCFG` reads 0 after reset, mapped or not (R43, R52). -/
theorem reset_portRead {r : Nat} (h : ∀ k, portMap r ≠ some (.fcfg k)) : State.reset.portRead r = 0 := by
  unfold State.portRead
  split
  · next reg hreg => exact reset_regValue fun k hk => h k (by rw [hreg, hk])
  · rfl

/-- `FCFG` of context `k` at the port after reset (R43). -/
theorem reset_portRead_fcfg (k : CtxId) : State.reset.portRead (0x101 + 0x100 * k.val) = 0x503#32 := by
  rw [State.portRead, (portMap_eq_fcfg_iff _ k).mpr rfl]
  exact reset_regValue_fcfg k

/-- Settles O54: `FCFG` is at 0x101 and 0x201 alone, and every other register is 0 after reset. -/
theorem resetValuesAtThePort : Obligations.ResetValuesAtThePort := by
  intro r
  split
  · next hr =>
    rcases hr with rfl | rfl
    · exact reset_portRead_fcfg 0
    · exact reset_portRead_fcfg 1
  · next hr =>
    refine reset_portRead fun k hk => hr ?_
    have hnumber := (portMap_eq_fcfg_iff r k).mp hk
    omega

end Sys2Proof.Machine
end

section
/-! What decoding answers for an illegal word, one lemma per check of R76, and the sample words of R77. -/

namespace Sys2Proof

/-! ### The checks that reject a word (R76) -/

theorem decode_eq_opcode {w : Word} (hrow : opcodeRow (fieldsOf w) = none) : decode w = .error .opcode := by
  simp [decode, hrow]

theorem decode_eq_unusedField {w : Word} {fmt : Format} {named : Option Instr}
    (hrow : opcodeRow (fieldsOf w) = some (fmt, named)) (hused : fmt.unusedZero (fieldsOf w) = false) :
    decode w = .error .unusedField := by
  simp [decode, hrow, hused]

/-- The operand fields name a command that fails a range check no mask expresses (R75). -/
theorem decode_eq_operandRange {w : Word} {fmt : Format} {i : Instr}
    (hrow : opcodeRow (fieldsOf w) = some (fmt, some i)) (hunused : fmt.unusedZero (fieldsOf w) = true)
    (hill : i.wellFormed = false) : decode w = .error .operandRange := by
  simp [decode, hrow, hunused, hill]

/-! ### The sample words (R77) -/

/-- Settles O4: a legal word has a row of the opcode map whose checks it passes, and an illegal one is rejected by the
check it fails: opcode 0xFF is unassigned, IIRNEW has field `b` set, LDB has byte index 24, PSNAP has the pair `x7`. -/
theorem sampleWordsDecode : Obligations.SampleWordsDecode := by
  refine ⟨?nop, ?ldb, ?xli, ?fmuli, ?iirnew, ?cext, ?adcext, ?psnap, ?adiff, ?opcodeFF, ?iirnewB, ?ldbIndex, ?psnapPair⟩
  case nop | ldb | xli | fmuli | iirnew | cext | adcext | psnap | adiff => exact decode_ok rfl rfl rfl
  case opcodeFF => exact decode_eq_opcode rfl
  case iirnewB => exact decode_eq_unusedField (fmt := .ri) (named := some (.iirnew 1 0 0)) rfl rfl
  case ldbIndex => exact decode_eq_operandRange (fmt := .i16) (i := .ldb 0 24 0) rfl rfl rfl
  case psnapPair => exact decode_eq_operandRange (fmt := .r3) (i := .psnap 7 1 .deep) rfl rfl rfl

end Sys2Proof
end

section
/-! Truncation to 31 significant bits: a rational's leading bits and their exponent are unique, and `normalize` answers
them (R101, R102). -/

namespace Sys2Proof.Machine

/-! ### The 31 leading bits of a positive rational -/

/-- `m` is the 31 leading bits of `y`, in units of `2^x`: the part of `y` below the unit is dropped (R102). -/
structure Leads (m : Nat) (x : Int) (y : ℚ) : Prop where
  top : 2 ^ 30 ≤ m
  bits : m < 2 ^ 31
  low : (m : ℚ) * 2 ^ x ≤ y
  high : y < ((m : ℚ) + 1) * 2 ^ x

/-- The top bit of `y` stands 30 places above the unit. -/
theorem Leads.magnitude {m : Nat} {x : Int} {y : ℚ} (h : Leads m x y) : 2 ^ (x + 30) ≤ y ∧ y < 2 ^ (x + 31) := by
  have hx : (0 : ℚ) < 2 ^ x := by positivity
  have htop : (2 : ℚ) ^ 30 ≤ m := by exact_mod_cast h.top
  have hbits : (m : ℚ) + 1 ≤ 2 ^ 31 := by exact_mod_cast h.bits
  rw [zpow_add₀ two_ne_zero, zpow_add₀ two_ne_zero, mul_comm, mul_comm (2 ^ x)]
  exact ⟨(mul_le_mul_of_nonneg_right htop hx.le).trans h.low,
    h.high.trans_le (mul_le_mul_of_nonneg_right hbits hx.le)⟩

/-- Two brackets of one value in the same unit: the lower ends are in order. -/
theorem le_of_brackets {m m' : Nat} {x : Int} {y : ℚ} (low : (m : ℚ) * 2 ^ x ≤ y) (high : y < ((m' : ℚ) + 1) * 2 ^ x) :
    m ≤ m' := by
  have h : (m : ℚ) < (m' : ℚ) + 1 := lt_of_mul_lt_mul_right (low.trans_lt high) (by positivity)
  exact Nat.lt_succ_iff.mp (by exact_mod_cast h)

theorem Leads.unique {m m' : Nat} {x x' : Int} {y : ℚ} (h : Leads m x y) (h' : Leads m' x' y) : m = m' ∧ x = x' := by
  obtain rfl : x = x' := by
    have h₁ := (zpow_lt_zpow_iff_right₀ one_lt_two).mp (h.magnitude.1.trans_lt h'.magnitude.2)
    have h₂ := (zpow_lt_zpow_iff_right₀ one_lt_two).mp (h'.magnitude.1.trans_lt h.magnitude.2)
    omega
  exact ⟨(le_of_brackets h.low h'.high).antisymm (le_of_brackets h'.low h.high), rfl⟩

/-- Aligning drops nothing where the bits shifted out are zero. -/
theorem alignMagnitude_exact {n i : Nat} (h : 2 ^ (i - 30) ∣ n) :
    (alignMagnitude n i : ℚ) * 2 ^ ((i : Int) - 30) = n := by
  unfold alignMagnitude
  split
  · next hi =>
    rw [show (i : Int) - 30 = -((30 - i : Nat) : Int) by omega, zpow_neg, zpow_natCast]
    push_cast
    exact mul_inv_cancel_right₀ (by positivity) _
  · next hi =>
    rw [show (i : Int) - 30 = ((i - 30 : Nat) : Int) by omega, zpow_natCast]
    exact_mod_cast Nat.div_mul_cancel h

/-- Aligning drops less than the unit of the aligned bits. -/
theorem alignMagnitude_brackets (n i : Nat) :
    (alignMagnitude n i : ℚ) * 2 ^ ((i : Int) - 30) ≤ n ∧
      (n : ℚ) < (alignMagnitude n i + 1) * 2 ^ ((i : Int) - 30) := by
  by_cases hi : i ≤ 30
  · have h := alignMagnitude_exact (n := n) (i := i) (by simp [Nat.sub_eq_zero_of_le hi])
    rw [add_mul, h]
    exact ⟨le_rfl, lt_add_of_pos_right _ (by positivity)⟩
  · rw [alignMagnitude, if_neg hi, show (i : Int) - 30 = ((i - 30 : Nat) : Int) by omega, zpow_natCast]
    exact ⟨by exact_mod_cast Nat.div_mul_le_self n _,
      by exact_mod_cast mul_comm (2 ^ (i - 30)) _ ▸ Nat.lt_mul_div_succ n (Nat.two_pow_pos _)⟩

/-- An integer aligned to the top of 31 bits keeps its leading bits, in the unit that the shift gives (R101). -/
theorem leads_alignMagnitude {n : Nat} (hn : n ≠ 0) (e : Int) :
    Leads (alignMagnitude n (msbIndex n)) (e + msbIndex n - 30) ((n : ℚ) * 2 ^ e) := by
  obtain ⟨top, bits⟩ := alignMagnitude_bounds n hn
  obtain ⟨low, high⟩ := alignMagnitude_brackets n (msbIndex n)
  have he : (0 : ℚ) < 2 ^ e := by positivity
  rw [add_sub_assoc, add_comm e]
  refine ⟨top, by omega, ?_, ?_⟩ <;> rw [zpow_add₀ two_ne_zero, ← mul_assoc]
  · exact mul_le_mul_of_nonneg_right low he.le
  · exact mul_lt_mul_of_pos_right high he

/-- A value has the leading bits of its integer part, in a unit no smaller than 1. -/
theorem Leads.of_floor {n m k : Nat} {e : Int} {y : ℚ} (h : Leads m (e + k) (n * 2 ^ e)) (low : (n : ℚ) * 2 ^ e ≤ y)
    (high : y < ((n : ℚ) + 1) * 2 ^ e) : Leads m (e + k) y := by
  refine ⟨h.top, h.bits, h.low.trans low, high.trans_le ?_⟩
  have hlt := h.high
  rw [add_comm e, zpow_add₀ two_ne_zero, ← mul_assoc, zpow_natCast] at hlt ⊢
  have hn : n < (m + 1) * 2 ^ k := by exact_mod_cast lt_of_mul_lt_mul_right hlt (by positivity)
  exact mul_le_mul_of_nonneg_right (by exact_mod_cast hn) (by positivity)

/-! ### The truncation of a rational -/

theorem SoftFloat.abs_val (q : SoftFloat) : |q.val| = (q.mant.toInt.natAbs : ℚ) * 2 ^ q.exp.toInt := by
  rw [SoftFloat.val, abs_mul, abs_of_pos (show (0 : ℚ) < 2 ^ q.exp.toInt by positivity), Nat.cast_natAbs, Int.cast_abs]

/-- A SoftFloat truncates a value other than 0 exactly if it has its sign and its 31 leading bits. -/
theorem isTrunc31_iff_leads {q : SoftFloat} {y : ℚ} (hy : y ≠ 0) :
    IsTrunc31 q y ↔ 0 < (q.mant.toInt : ℚ) * y ∧ Leads q.mant.toInt.natAbs q.exp.toInt |y| := by
  have hx : (0 : ℚ) < 2 ^ q.exp.toInt := by positivity
  have habs := q.abs_val
  have hsign : 0 < q.val * y ↔ 0 < (q.mant.toInt : ℚ) * y := by
    rw [SoftFloat.val, mul_right_comm, mul_pos_iff_of_pos_right hx]
  constructor
  · rintro ⟨hnorm, -, htrunc⟩
    obtain ⟨hm, hpos, hle, hlt⟩ := htrunc hy
    obtain ⟨htop, hbits⟩ := hnorm.resolve_left fun hz => hm (congrArg SoftFloat.mant hz)
    exact ⟨hsign.mp hpos, htop, by omega, habs ▸ hle, by rwa [add_mul, one_mul, ← habs]⟩
  · rintro ⟨hpos, htop, hbits, hle, hlt⟩
    refine ⟨.inr ⟨htop, by omega⟩, fun h => absurd h hy, fun _ => ⟨fun hm => ?_, hsign.mpr hpos, habs ▸ hle, ?_⟩⟩
    · simp [hm] at hpos
    · rwa [add_mul, one_mul, ← habs] at hlt

/-- For each rational at most one SoftFloat is its truncation. -/
theorem IsTrunc31.unique {q q' : SoftFloat} {y : ℚ} (h : IsTrunc31 q y) (h' : IsTrunc31 q' y) : q = q' := by
  by_cases hy : y = 0
  · obtain ⟨-, hzero, -⟩ := h
    obtain ⟨-, hzero', -⟩ := h'
    rw [hzero hy, hzero' hy]
  · obtain ⟨hs, hl⟩ := (isTrunc31_iff_leads hy).mp h
    obtain ⟨hs', hl'⟩ := (isTrunc31_iff_leads hy).mp h'
    obtain ⟨hm, hx⟩ := hl.unique hl'
    have hsame : q.mant.toInt = q'.mant.toInt := by
      rcases Int.natAbs_eq_natAbs_iff.mp hm with heq | hneg
      · exact heq
      · rw [hneg, Int.cast_neg, neg_mul] at hs
        exact absurd (hs.trans (neg_neg_of_pos hs')) (lt_irrefl _)
    exact SoftFloat.mk.injEq .. |>.mpr ⟨BitVec.toInt_inj.mp hsame, BitVec.toInt_inj.mp hx⟩

/-- The computation `m` answers the truncation of `y`, and raises `ExponentRange` where there is none (R102, R103). -/
structure Truncates (m : Except Cause SoftFloat) (y : ℚ) : Prop where
  ok_iff : ∀ q, m = .ok q ↔ IsTrunc31 q y
  cause : ∀ c, m = .error c → c = .exponentRange

theorem truncates_ok {q : SoftFloat} {y : ℚ} (h : IsTrunc31 q y) : Truncates (.ok q) y where
  ok_iff _ := ⟨fun heq => Except.ok.inj heq ▸ h, fun h' => congrArg _ (h.unique h')⟩
  cause _ := nofun

theorem Truncates.error_iff {m : Except Cause SoftFloat} {y : ℚ} (h : Truncates m y) :
    m = .error .exponentRange ↔ ¬∃ q, IsTrunc31 q y := by
  simp only [← h.ok_iff]
  cases m with
  | ok q => simp
  | error c => simp [h.cause c rfl]

/-- Two computations of one truncation agree. -/
theorem Truncates.unique {m m' : Except Cause SoftFloat} {y : ℚ} (h : Truncates m y) (h' : Truncates m' y) :
    m = m' := by
  by_cases hq : ∃ q, IsTrunc31 q y
  · obtain ⟨q, hq⟩ := hq
    rw [(h.ok_iff q).mpr hq, (h'.ok_iff q).mpr hq]
  · rw [h.error_iff.mpr hq, h'.error_iff.mpr hq]

/-- A normalized SoftFloat is its own truncation. (The tests state it for their witnesses; the laws do not rest
on the tests.) -/
theorem SoftFloat.Normalized.isTrunc31 {q : SoftFloat} (h : q.Normalized) : IsTrunc31 q q.val := by
  rcases h with rfl | ⟨htop, hbits⟩
  · exact ⟨.inl rfl, fun _ => rfl, fun hy => absurd (by simp [SoftFloat.val, SoftFloat.zero]) hy⟩
  · have hm : (q.mant.toInt : ℚ) ≠ 0 := by
      rw [Int.cast_ne_zero]; omega
    have hx : (0 : ℚ) < 2 ^ q.exp.toInt := by positivity
    refine (isTrunc31_iff_leads (mul_ne_zero hm hx.ne')).mpr ⟨?_, htop, by omega, q.abs_val.ge, ?_⟩
    · exact mul_assoc (q.mant.toInt : ℚ) _ _ ▸ mul_pos (mul_self_pos.mpr hm) hx
    · exact q.abs_val.trans_lt (mul_lt_mul_of_pos_right (lt_add_one _) hx)

/-! ### `normalize` (R101 to R103) -/

theorem cast_sgn_mul_natAbs (v : Int) : (sgn v : ℚ) * v.natAbs = v := by
  rw [← Int.cast_natCast, ← Int.cast_mul, sgn_mul_natAbs]

/-- `normalize` answers the truncation of every value with the sign and the leading bits of its intermediate result. -/
theorem normalize_truncates_of_leads {r e : Int} {y : ℚ} (hsign : 0 < (r : ℚ) * y)
    (h : Leads (alignMagnitude r.natAbs (msbIndex r.natAbs)) (e + msbIndex r.natAbs - 30) |y|) :
    Truncates (normalize r e) y := by
  have hr : r ≠ 0 := by rintro rfl; simp at hsign
  have hy : y ≠ 0 := by rintro rfl; simp at hsign
  rcases normalize_nonzero r e hr with ⟨q, hq, hm, hx⟩ | ⟨herr, hrange⟩
  · have hmag : q.mant.toInt.natAbs = alignMagnitude r.natAbs (msbIndex r.natAbs) := by
      rcases sgn_cases r with ⟨hs, -⟩ | ⟨hs, -⟩ <;> rw [hm, hs] <;> omega
    have hpos : 0 < (alignMagnitude r.natAbs (msbIndex r.natAbs) : ℚ) := by
      exact_mod_cast (Nat.two_pow_pos 30).trans_le h.top
    have hscale : (q.mant.toInt : ℚ) * r.natAbs = r * alignMagnitude r.natAbs (msbIndex r.natAbs) := by
      rw [hm, Int.cast_mul, Int.cast_natCast, mul_right_comm, cast_sgn_mul_natAbs]
    rw [hq]
    refine truncates_ok ((isTrunc31_iff_leads hy).mpr ⟨?_, by rwa [hmag, hx]⟩)
    have hprod : 0 < (q.mant.toInt : ℚ) * y * r.natAbs := by
      rw [mul_right_comm, hscale, mul_right_comm]
      exact mul_pos hsign hpos
    exact pos_of_mul_pos_left hprod (by positivity)
  · refine ⟨fun q => ⟨fun hq => by simp [herr] at hq, fun hq => absurd ?_ hrange⟩, normalize_error r e⟩
    rw [(h.unique ((isTrunc31_iff_leads hy).mp hq).2).2]
    exact word_toInt_range q.exp

/-- `normalize` truncates its exact intermediate value (R102). -/
theorem normalize_truncates (r e : Int) : Truncates (normalize r e) (r * 2 ^ e) := by
  have he : (0 : ℚ) < 2 ^ e := by positivity
  by_cases hr : r = 0
  · rw [hr, normalize_zero, Int.cast_zero, zero_mul]
    exact truncates_ok ⟨.inl rfl, fun _ => rfl, fun h => absurd rfl h⟩
  · refine normalize_truncates_of_leads ?_ ?_
    · rw [← mul_assoc]
      exact mul_pos (mul_self_pos.mpr (Int.cast_ne_zero.mpr hr)) he
    · rw [abs_mul, abs_of_pos he, ← Int.cast_abs, ← Nat.cast_natAbs]
      exact leads_alignMagnitude (Int.natAbs_ne_zero.mpr hr) e

/-- `normalize` truncates also a value of which the intermediate result holds 31 bits or more, the rest dropped. -/
theorem normalize_truncates_of_floor {r e : Int} {y : ℚ} (hbits : 2 ^ 30 ≤ r.natAbs) (hsign : 0 < (r : ℚ) * y)
    (low : (r.natAbs : ℚ) * 2 ^ e ≤ |y|) (high : |y| < ((r.natAbs : ℚ) + 1) * 2 ^ e) : Truncates (normalize r e) y := by
  have hr : r.natAbs ≠ 0 := by omega
  have hi : 30 ≤ msbIndex r.natAbs := (Nat.le_log2 hr).mpr hbits
  have h := leads_alignMagnitude hr e
  refine normalize_truncates_of_leads hsign ?_
  rw [show e + (msbIndex r.natAbs : Int) - 30 = e + ((msbIndex r.natAbs - 30 : Nat) : Int) by omega] at h ⊢
  exact h.of_floor low high

/-- Where the intermediate result has at most `k + 1` bits, exponents in this range keep the answer's in `int32` (R103,
R108). -/
theorem normalize_completes {r e : Int} {k : Nat} (hr : r.natAbs < 2 ^ (k + 1)) (low : -2147483618 ≤ e)
    (high : e + k ≤ 2147483677) : ∃ q, normalize r e = .ok q := by
  by_cases hz : r = 0
  · exact ⟨_, by rw [hz, normalize_zero]⟩
  · have hi : msbIndex r.natAbs < k + 1 := (Nat.log2_lt (Int.natAbs_ne_zero.mpr hz)).mpr hr
    rcases normalize_nonzero r e hz with ⟨q, hq, -, -⟩ | ⟨-, hrange⟩
    · exact ⟨q, hq⟩
    · exact absurd (by omega) hrange

/-- The one magnitude of an `int32` with 32 bits is `2^31`, whose lowest bit is 0 (R115). -/
theorem two_pow_msbIndex_dvd {n : Nat} (hn : n ≠ 0) (h : n ≤ 2 ^ 31) : 2 ^ (msbIndex n - 30) ∣ n := by
  obtain ⟨hlow, -⟩ := msbIndex_bounds n hn
  rcases Nat.lt_or_ge 30 (msbIndex n) with hi | hi
  · have hlt : msbIndex n < 32 := (Nat.log2_lt hn).mpr (by omega)
    have h31 : msbIndex n = 31 := by omega
    rw [h31] at hlow ⊢
    omega
  · simp [Nat.sub_eq_zero_of_le hi]

/-- An `int32` intermediate result loses nothing: at most one bit is shifted out, and it is 0 (R115). -/
theorem normalize_exact {r e : Int} {q : SoftFloat} (hr : r.natAbs ≤ 2 ^ 31) (h : normalize r e = .ok q) :
    q.val = r * 2 ^ e := by
  by_cases hz : r = 0
  · obtain rfl : SoftFloat.zero = q := by simpa [hz] using h
    simp [SoftFloat.val, SoftFloat.zero, hz]
  · rcases normalize_nonzero r e hz with ⟨q', hq, hm, hx⟩ | ⟨herr, -⟩
    · obtain rfl : q' = q := by simpa using hq.symm.trans h
      have hdvd := two_pow_msbIndex_dvd (Int.natAbs_ne_zero.mpr hz) hr
      rw [SoftFloat.val, hm, hx, add_sub_assoc, zpow_add₀ two_ne_zero, mul_comm (2 ^ e), ← mul_assoc, Int.cast_mul,
        Int.cast_natCast, mul_assoc (sgn r : ℚ), alignMagnitude_exact hdvd, cast_sgn_mul_natAbs]
    · rw [herr] at h; cases h

end Sys2Proof.Machine
end

section
/-! The SoftFloat operations truncate their exact results, and complete on inner exponents (R105 to R114). -/

namespace Sys2Proof.Machine

theorem toInt_eq_zero_iff (w : Word) : w.toInt = 0 ↔ w = 0 := by
  rw [← BitVec.toInt_inj]; rfl

theorem SoftFloat.val_of_mant_eq_zero {a : SoftFloat} (h : a.mant = 0) : a.val = 0 := by
  simp [SoftFloat.val, h]

theorem SoftFloat.Normalized.natAbs_lt {a : SoftFloat} (h : a.Normalized) : a.mant.toInt.natAbs < 2 ^ 31 :=
  Nat.lt_of_le_pred (by decide) h.natAbs_le

theorem SoftFloat.Normalized.two_pow_le {a : SoftFloat} (h : a.Normalized) (hm : a.mant ≠ 0) :
    2 ^ 30 ≤ a.mant.toInt.natAbs :=
  (h.resolve_left fun hz => hm (congrArg SoftFloat.mant hz)).1

/-! ### Negation -/

theorem SoftFloat.Normalized.neg_mant {a : SoftFloat} (h : a.Normalized) : a.neg.mant.toInt = -a.mant.toInt :=
  int32_toInt _ (by have := h.natAbs_lt; omega)

theorem SoftFloat.Normalized.neg {a : SoftFloat} (h : a.Normalized) : a.neg.Normalized := by
  refine h.imp (fun hz => by rw [hz]; rfl) fun hm => ?_
  rwa [h.neg_mant, Int.natAbs_neg]

theorem SoftFloat.Normalized.neg_val {a : SoftFloat} (h : a.Normalized) : a.neg.val = -a.val := by
  rw [SoftFloat.val, h.neg_mant, Int.cast_neg, neg_mul]; rfl

theorem SoftFloat.Normalized.neg_mant_eq_zero_iff {a : SoftFloat} (h : a.Normalized) : a.neg.mant = 0 ↔ a.mant = 0 := by
  rw [← toInt_eq_zero_iff, h.neg_mant, neg_eq_zero, toInt_eq_zero_iff]

/-! ### Multiplication and division (R112 to R114) -/

/-- The product is exact before it is truncated (R112). -/
theorem fMul_truncates (a b : SoftFloat) : Truncates (fMul a b) (a.val * b.val) := by
  have h := normalize_truncates (a.mant.toInt * b.mant.toInt) (a.exp.toInt + b.exp.toInt)
  rwa [Int.cast_mul, zpow_add₀ two_ne_zero, mul_mul_mul_comm] at h

theorem fMul_completes {a b : SoftFloat} (ha : a.Tame) (hb : b.Tame) : ∃ q, fMul a b = .ok q := by
  obtain ⟨ha, halow, hahigh⟩ := ha
  obtain ⟨hb, hblow, hbhigh⟩ := hb
  refine normalize_completes (k := 61) ?_ (by omega) (by omega)
  calc (a.mant.toInt * b.mant.toInt).natAbs
      = a.mant.toInt.natAbs * b.mant.toInt.natAbs := Int.natAbs_mul ..
    _ < 2 ^ 31 * 2 ^ 31 := Nat.mul_lt_mul'' ha.natAbs_lt hb.natAbs_lt

/-- The product with an integer is exact before it is truncated (R114). -/
theorem fMulInt_truncates (a : SoftFloat) (n : Int) : Truncates (fMulInt a n) (a.val * n) := by
  have h := normalize_truncates (a.mant.toInt * n) a.exp.toInt
  rwa [Int.cast_mul, mul_right_comm] at h

theorem fMulInt_completes {a : SoftFloat} (ha : a.Tame) (n : Word) : ∃ q, fMulInt a n.toInt = .ok q := by
  obtain ⟨ha, halow, hahigh⟩ := ha
  have hn := word_toInt_range n
  refine normalize_completes (k := 62) ?_ (by omega) (by omega)
  calc (a.mant.toInt * n.toInt).natAbs
      = a.mant.toInt.natAbs * n.toInt.natAbs := Int.natAbs_mul ..
    _ < 2 ^ 31 * 2 ^ 32 := Nat.mul_lt_mul'' ha.natAbs_lt (by omega)

/-- A divisor of mantissa 0 is tested before the dividend (R113). -/
theorem fDiv_zero {a b : SoftFloat} (h : b.mant = 0) : fDiv a b = .error .divisionByZero :=
  if_pos ((toInt_eq_zero_iff _).mpr h)

/-- Any other divisor divides the mantissa shifted left by 32, toward zero (R113). -/
theorem fDiv_eq_normalize {a b : SoftFloat} (h : b.mant ≠ 0) :
    fDiv a b = normalize ((a.mant.toInt * 2 ^ 32).tdiv b.mant.toInt) (a.exp.toInt - b.exp.toInt - 32) := by
  rw [fDiv, if_neg (mt (toInt_eq_zero_iff _).mp h), tquot_eq_tdiv]; rfl

/-- A truncated integer quotient of 31 bits or more has the leading bits of the exact quotient (R113). -/
theorem normalize_tdiv_truncates {n d : Int} (e : Int) (h : 2 ^ 30 ≤ (n.tdiv d).natAbs) :
    Truncates (normalize (n.tdiv d) e) ((n : ℚ) / d * 2 ^ e) := by
  have he : (0 : ℚ) < 2 ^ e := by positivity
  have hq : (n.tdiv d).natAbs = n.natAbs / d.natAbs := Int.natAbs_tdiv ..
  have hd : d.natAbs ≠ 0 := by intro hd; simp [hq, hd] at h
  have hle : d.natAbs ≤ n.natAbs := (Nat.div_pos_iff.mp (by omega)).2
  have habs : |(n : ℚ) / d * 2 ^ e| = (n.natAbs : ℚ) / d.natAbs * 2 ^ e := by
    rw [abs_mul, abs_div, abs_of_pos he, Nat.cast_natAbs, Nat.cast_natAbs, Int.cast_abs, Int.cast_abs]
  refine normalize_truncates_of_floor h ?sign ?low ?high
  case sign =>
    have hsign : 0 < n.tdiv d * (n * d) := by
      rw [← Int.sign_eq_one_iff_pos, Int.sign_mul, Int.sign_tdiv, if_neg hle.not_gt, ← Int.sign_mul, ← Int.sign_mul,
        Int.sign_eq_one_iff_pos]
      exact mul_self_pos.mpr (mul_ne_zero (by omega) (by omega))
    have hsq : (n : ℚ) / d * 2 ^ e = n * d * (2 ^ e / (d * d)) := by
      have : (d : ℚ) ≠ 0 := by rw [Int.cast_ne_zero]; omega
      field_simp
    rw [hsq, ← mul_assoc]
    have hdd : (0 : ℚ) < d * d := mul_self_pos.mpr (by rw [Int.cast_ne_zero]; omega)
    exact mul_pos (by exact_mod_cast hsign) (div_pos he hdd)
  case low =>
    rw [habs, hq]
    exact mul_le_mul_of_nonneg_right Nat.cast_div_le he.le
  case high =>
    rw [habs, hq]
    refine mul_lt_mul_of_pos_right ?_ he
    rw [div_lt_iff₀' (by positivity)]
    exact_mod_cast Nat.lt_mul_div_succ n.natAbs (by omega)

/-- The quotient of mantissas, one of them shifted left by 32, holds 31 bits of the exact quotient, so truncating it
truncates the exact one (R113). -/
theorem fDiv_truncates {a b : SoftFloat} (ha : a.Normalized) (hb : b.Normalized) (h : b.mant ≠ 0) :
    Truncates (fDiv a b) (a.val / b.val) := by
  have hval : a.val / b.val = ((a.mant.toInt * 2 ^ 32 : Int) : ℚ) / b.mant.toInt *
      2 ^ (a.exp.toInt - b.exp.toInt - 32) := by
    rw [SoftFloat.val, SoftFloat.val, zpow_sub₀ two_ne_zero, zpow_sub₀ two_ne_zero]
    push_cast
    field_simp
  rw [fDiv_eq_normalize h, hval]
  by_cases hz : a.mant = 0
  · simpa [hz] using normalize_truncates 0 (a.exp.toInt - b.exp.toInt - 32)
  · refine normalize_tdiv_truncates _ ?_
    have hlow := ha.two_pow_le hz
    have hpos : 0 < b.mant.toInt.natAbs := Int.natAbs_pos.mpr (mt (toInt_eq_zero_iff _).mp h)
    rw [Int.natAbs_tdiv, Int.natAbs_mul]
    exact (Nat.le_div_iff_mul_le hpos).mpr (Nat.mul_le_mul hlow (hb.natAbs_lt.le.trans (by decide)))

theorem fDiv_completes {a b : SoftFloat} (ha : a.Tame) (hb : b.Tame) (h : b.mant ≠ 0) : ∃ q, fDiv a b = .ok q := by
  obtain ⟨ha, halow, hahigh⟩ := ha
  obtain ⟨-, hblow, hbhigh⟩ := hb
  rw [fDiv_eq_normalize h]
  refine normalize_completes (k := 62) ?_ (by omega) (by omega)
  rw [Int.natAbs_tdiv, Int.natAbs_mul]
  have hlt := ha.natAbs_lt
  exact (Nat.div_le_self _ _).trans_lt (Nat.mul_lt_mul_of_pos_right hlt (by decide))

/-! ### Addition (R105 to R107, R110) -/

/-- The alignment shift is the exponent difference, 31 at most (R105). -/
theorem clamp_shift {d : Int} (h : 0 ≤ d) : clamp d (-31) 31 = min d 31 ∧ clamp (-d) (-31) 31 = -min d 31 := by
  unfold clamp
  constructor <;> split_ifs <;> omega

theorem pow2_eq (n : Nat) : pow2 n = 2 ^ n := by simp [pow2]

theorem fAdd_of_left_zero {a b : SoftFloat} (h : a.mant = 0) : fAdd a b = .ok b := by
  simp [fAdd, addsub, h]

theorem fAdd_of_right_zero {a b : SoftFloat} (ha : a.mant ≠ 0) (hb : b.mant = 0) : fAdd a b = .ok a := by
  have ham := mt (toInt_eq_zero_iff _).mp ha
  simp [fAdd, addsub, ham, hb]

/-- The second operand is aligned to the first, whose exponent is not smaller (R105). -/
theorem fAdd_of_exp_le {a b : SoftFloat} (ha : a.mant ≠ 0) (hb : b.mant ≠ 0) (h : b.exp.toInt ≤ a.exp.toInt) :
    fAdd a b = normalize (a.mant.toInt + b.mant.toInt.tdiv (2 ^ (min (a.exp.toInt - b.exp.toInt) 31).toNat))
      a.exp.toInt := by
  have ham := mt (toInt_eq_zero_iff _).mp ha
  have hbm := mt (toInt_eq_zero_iff _).mp hb
  obtain ⟨hshift, -⟩ := clamp_shift (sub_nonneg.mpr h)
  have hpos : 0 ≤ min (a.exp.toInt - b.exp.toInt) 31 := by omega
  simp [fAdd, addsub, ham, hbm, hshift, hpos, shrTz_eq_tdiv, pow2_eq]

/-- The first operand is aligned to the second, whose exponent is larger (R105). -/
theorem fAdd_of_exp_lt {a b : SoftFloat} (ha : a.mant ≠ 0) (hb : b.mant ≠ 0) (h : a.exp.toInt < b.exp.toInt) :
    fAdd a b = normalize (a.mant.toInt.tdiv (2 ^ (min (b.exp.toInt - a.exp.toInt) 31).toNat) + b.mant.toInt)
      b.exp.toInt := by
  have ham := mt (toInt_eq_zero_iff _).mp ha
  have hbm := mt (toInt_eq_zero_iff _).mp hb
  obtain ⟨-, hshift⟩ := clamp_shift (sub_nonneg.mpr h.le)
  rw [neg_sub] at hshift
  simp [fAdd, addsub, ham, hbm, hshift, h, shrTz_eq_tdiv, pow2_eq]

/-- The sum is the aligned sum, truncated (R110). -/
theorem fAdd_truncates {a b : SoftFloat} (ha : a.Normalized) (hb : b.Normalized) :
    Truncates (fAdd a b) (alignedSum a b) := by
  unfold alignedSum
  split_ifs with ham hbm hexp
  · exact fAdd_of_left_zero ham ▸ truncates_ok hb.isTrunc31
  · exact fAdd_of_right_zero ham hbm ▸ truncates_ok ha.isTrunc31
  · exact fAdd_of_exp_le ham hbm hexp ▸ normalize_truncates _ _
  · exact fAdd_of_exp_lt ham hbm (not_le.mp hexp) ▸ normalize_truncates _ _

theorem natAbs_add_tdiv_lt {m n : Int} {k : Nat} (hm : m.natAbs < 2 ^ 31) (hn : n.natAbs < 2 ^ 31) :
    (m + n.tdiv (2 ^ k)).natAbs < 2 ^ 32 := by
  have h : (n.tdiv (2 ^ k)).natAbs ≤ n.natAbs := Int.natAbs_tdiv .. ▸ Nat.div_le_self _ _
  omega

theorem fAdd_completes {a b : SoftFloat} (ha : a.Tame) (hb : b.Tame) : ∃ q, fAdd a b = .ok q := by
  obtain ⟨ha, halow, hahigh⟩ := ha
  obtain ⟨hb, hblow, hbhigh⟩ := hb
  by_cases ham : a.mant = 0
  · exact ⟨b, fAdd_of_left_zero ham⟩
  by_cases hbm : b.mant = 0
  · exact ⟨a, fAdd_of_right_zero ham hbm⟩
  rcases le_or_gt b.exp.toInt a.exp.toInt with hexp | hexp
  · rw [fAdd_of_exp_le ham hbm hexp]
    exact normalize_completes (k := 31) (natAbs_add_tdiv_lt ha.natAbs_lt hb.natAbs_lt) (by omega) (by omega)
  · rw [fAdd_of_exp_lt ham hbm hexp, add_comm]
    exact normalize_completes (k := 31) (natAbs_add_tdiv_lt hb.natAbs_lt ha.natAbs_lt) (by omega) (by omega)

/-- Subtraction is addition of the negation (R111). -/
theorem fSub_eq_fAdd_neg {a b : SoftFloat} (hb : b.Normalized) : fSub a b = fAdd a b.neg := by
  simp only [fSub, fAdd, addsub, hb.neg_mant, Bool.false_eq_true, if_true, if_false]
  rfl

/-! ### The algebra of the aligned sum (R106, R107) -/

theorem alignedSum_of_left_zero {a b : SoftFloat} (h : a.mant = 0) : alignedSum a b = b.val := if_pos h

theorem alignedSum_of_right_zero {a b : SoftFloat} (h : b.mant = 0) : alignedSum a b = a.val := by
  by_cases ha : a.mant = 0
  · rw [alignedSum_of_left_zero ha, SoftFloat.val_of_mant_eq_zero ha, SoftFloat.val_of_mant_eq_zero h]
  · rw [alignedSum, if_neg ha, if_pos h]

theorem alignedSum_comm (a b : SoftFloat) : alignedSum a b = alignedSum b a := by
  by_cases ha : a.mant = 0
  · rw [alignedSum_of_left_zero ha, alignedSum_of_right_zero ha]
  by_cases hb : b.mant = 0
  · rw [alignedSum_of_left_zero hb, alignedSum_of_right_zero hb]
  simp only [alignedSum, ha, hb, if_false]
  rcases lt_trichotomy a.exp.toInt b.exp.toInt with h | h | h
  · rw [if_neg h.not_ge, if_pos h.le, add_comm]
  · simp [h, add_comm]
  · rw [if_pos h.le, if_neg h.not_ge, add_comm]

/-- A SoftFloat and its negation cancel (R106). -/
theorem alignedSum_neg {a : SoftFloat} (h : a.Normalized) : alignedSum a a.neg = 0 := by
  by_cases ha : a.mant = 0
  · rw [alignedSum_of_left_zero ha, h.neg_val, SoftFloat.val_of_mant_eq_zero ha, neg_zero]
  · have hexp : a.neg.exp = a.exp := rfl
    rw [alignedSum, if_neg ha, if_neg (mt h.neg_mant_eq_zero_iff.mp ha), hexp, if_pos le_rfl]
    simp [h.neg_mant]

/-- An operand smaller by 31 binary orders or more is shifted out whole (R107). -/
theorem alignedSum_of_far {a b : SoftFloat} (hb : b.Normalized) (ha : a.mant ≠ 0)
    (h : b.exp.toInt + 31 ≤ a.exp.toInt) : alignedSum a b = a.val := by
  by_cases hbm : b.mant = 0
  · exact alignedSum_of_right_zero hbm
  · have hshift : (min (a.exp.toInt - b.exp.toInt) 31).toNat = 31 := by omega
    have hgone : b.mant.toInt.tdiv (2 ^ 31) = 0 := by
      rw [← Int.natAbs_eq_zero, Int.natAbs_tdiv]
      exact Nat.div_eq_of_lt hb.natAbs_lt
    rw [alignedSum, if_neg ha, if_neg hbm, if_pos (by omega), hshift, hgone, add_zero]
    rfl

end Sys2Proof.Machine
end

section
/-! The statements about the SoftFloat unit (40_softfloat.md). -/

namespace Sys2Proof.Machine

/-! ### Commands that store a computed SoftFloat -/

section
variable {s : State} {i : Instr} {fd : FReg} {m : Except Cause SoftFloat} {y : ℚ}

/-- A command that stores a truncation writes it to its destination and nothing else. -/
theorem Truncates.finish_ok (h : Truncates m y) {q : SoftFloat} (hq : IsTrunc31 q y) :
    s.finish i (m.map (s.writeF fd)) = .next { s with f := s.f.set fd.val q, response := some .ok } := by
  rw [(h.ok_iff q).mpr hq]; rfl

theorem Truncates.finish_error (h : Truncates m y) (hq : ¬∃ q, IsTrunc31 q y) :
    s.finish i (m.map (s.writeF fd)) = .next (s.raise .exponentRange (encode i)) := by
  rw [h.error_iff.mpr hq]; rfl

theorem Truncates.finish_completes (h : Truncates m y) (hm : ∃ q, m = .ok q) :
    ∃ q, IsTrunc31 q y ∧
      s.finish i (m.map (s.writeF fd)) = .next { s with f := s.f.set fd.val q, response := some .ok } := by
  obtain ⟨q, hq⟩ := hm
  have htrunc := (h.ok_iff q).mp hq
  exact ⟨q, htrunc, h.finish_ok htrunc⟩

end

/-! ### Normalization and addition -/

/-- Settles O19: the intermediate value is the same after scaling, and the truncation depends on it alone. -/
theorem normalizeTruncatesTowardZero : Obligations.NormalizeTruncatesTowardZero := by
  intro r e
  have h := normalize_truncates r e
  refine ⟨h.ok_iff, h.error_iff, fun j => Truncates.unique ?_ h⟩
  have hscale := normalize_truncates (r * 2 ^ j) (e - j)
  rwa [Int.cast_mul, Int.cast_pow, Int.cast_ofNat, zpow_sub₀ two_ne_zero, zpow_natCast, mul_assoc,
    mul_div_cancel₀ _ (by positivity)] at hscale

/-- Settles O20: the sum is the truncation of the aligned sum. -/
theorem faddWritesTheAlignedSum : Obligations.FaddWritesTheAlignedSum := by
  intro fd fa fb s ha hb
  have h := fAdd_truncates ha hb
  exact ⟨rfl, fun _ => h.finish_ok, h.finish_error,
    fun hea heb => h.finish_completes (fAdd_completes ⟨ha, hea⟩ ⟨hb, heb⟩)⟩

/-- Settles O21: the difference is the sum with the negated operand. -/
theorem fsubWritesTheAlignedDifference : Obligations.FsubWritesTheAlignedDifference := by
  intro fd fa fb s ha hb
  have h := fAdd_truncates ha hb.neg
  rw [← fSub_eq_fAdd_neg hb] at h
  refine ⟨rfl, fun _ => h.finish_ok, h.finish_error, fun hea heb => h.finish_completes ?_⟩
  rw [fSub_eq_fAdd_neg hb]
  exact fAdd_completes ⟨ha, hea⟩ ⟨hb.neg, heb⟩

/-- A sum whose aligned sum is the value of a normalized SoftFloat is that SoftFloat. -/
theorem fAdd_eq_of_alignedSum {a b c : SoftFloat} (ha : a.Normalized) (hb : b.Normalized) (hc : c.Normalized)
    (h : alignedSum a b = c.val) : fAdd a b = .ok c :=
  ((fAdd_truncates ha hb).ok_iff c).mpr (h ▸ hc.isTrunc31)

/-- Settles O22: addition depends on the aligned sum alone, so its laws are those of the aligned sum. -/
theorem additionLaws : Obligations.AdditionLaws := by
  intro a b ha hb
  have hzero : SoftFloat.zero.Normalized := .inl rfl
  have hcomm : fAdd a b = fAdd b a :=
    (fAdd_truncates ha hb).unique (alignedSum_comm a b ▸ fAdd_truncates hb ha)
  have hright : fAdd a SoftFloat.zero = .ok a :=
    fAdd_eq_of_alignedSum ha hzero ha (alignedSum_of_right_zero rfl)
  have hself : fSub a a = .ok SoftFloat.zero := by
    rw [fSub_eq_fAdd_neg ha]
    exact fAdd_eq_of_alignedSum ha ha.neg hzero ((alignedSum_neg ha).trans (SoftFloat.val_of_mant_eq_zero rfl).symm)
  refine ⟨hcomm, hright, fAdd_of_left_zero rfl, ?_, ?_, hb.neg_val, hself, fSub_eq_fAdd_neg hb, fun ham hfar => ?_⟩
  · rw [fSub_eq_fAdd_neg hzero]; exact hright
  · rw [fSub_eq_fAdd_neg hb]; exact fAdd_of_left_zero rfl
  · exact fAdd_eq_of_alignedSum ha hb ha (alignedSum_of_far hb ham hfar)

/-! ### Multiplication and division -/

/-- Settles O23: the product is exact before it is truncated. -/
theorem fmulWritesTheTruncatedProduct : Obligations.FmulWritesTheTruncatedProduct := by
  intro fd fa fb s ha hb
  have h := fMul_truncates (s.readF fa) (s.readF fb)
  exact ⟨rfl, fun _ => h.finish_ok, h.finish_error,
    fun hea heb => h.finish_completes (fMul_completes ⟨ha, hea⟩ ⟨hb, heb⟩)⟩

/-- Settles O24: the divisor is tested first, and the integer quotient holds the 31 bits of the exact one. -/
theorem fdivWritesTheTruncatedQuotient : Obligations.FdivWritesTheTruncatedQuotient := by
  intro fd fa fb s ha hb
  refine ⟨rfl, fun hz => ?_, fun hz => ?_⟩
  · rw [exec, execFdiv, fDiv_zero hz]; rfl
  · have h := fDiv_truncates ha hb hz
    exact ⟨fun _ => h.finish_ok, h.finish_error,
      fun hea heb => h.finish_completes (fDiv_completes ⟨ha, hea⟩ ⟨hb, heb⟩ hz)⟩

/-- Every `int32` has a SoftFloat, of exactly its value (R115). -/
theorem normalize_word_exact (n : Word) {e : Int} {q : SoftFloat} (h : normalize n.toInt e = .ok q) :
    q.val = n.toInt * 2 ^ e :=
  normalize_exact (by have := word_toInt_range n; omega) h

/-- Settles O25: the product is exact before it is truncated, with the integer as with its exact SoftFloat. -/
theorem fmuliWritesTheTruncatedProduct : Obligations.FmuliWritesTheTruncatedProduct := by
  constructor
  · intro fd fa xb s ha
    have h := fMulInt_truncates (s.readF fa) (s.readX xb).toInt
    exact ⟨rfl, fun _ => h.finish_ok, h.finish_error, fun hea => h.finish_completes (fMulInt_completes ⟨ha, hea⟩ _)⟩
  · intro a n _
    have hn := word_toInt_range n
    obtain ⟨b, hb⟩ := normalize_completes (r := n.toInt) (e := 0) (k := 31) (by omega) (by omega) (by omega)
    have hval : b.val = n.toInt := by rw [normalize_word_exact n hb, zpow_zero, mul_one]
    exact ⟨b, hb, hval, (fMulInt_truncates a n.toInt).unique (hval ▸ fMul_truncates a b)⟩

/-! ### Conversions, moves and bit scans -/

/-- The truncation of an `int32` times a power of two is a SoftFloat of exactly that value (R115). -/
theorem isTrunc31_word_iff (n : Word) (e : Int) (q : SoftFloat) :
    IsTrunc31 q (n.toInt * 2 ^ e) ↔ q.Normalized ∧ q.val = n.toInt * 2 ^ e := by
  constructor
  · intro h
    exact ⟨h.1, normalize_word_exact n (((normalize_truncates n.toInt e).ok_iff q).mpr h)⟩
  · rintro ⟨hnorm, hval⟩
    exact hval ▸ hnorm.isTrunc31

/-- Settles O26: the intermediate value is exact, and its truncation loses nothing. -/
theorem ffromConvertsExactly : Obligations.FfromConvertsExactly := by
  intro fd xa xb s
  have h := normalize_truncates (s.readX xa).toInt (s.readX xb).toInt
  have hexact := isTrunc31_word_iff (s.readX xa) (s.readX xb).toInt
  have hx := word_toInt_range (s.readX xa)
  refine ⟨rfl, fun q hnorm hval => ?_, fun hnone => ?_, fun hlow hhigh => ?_⟩
  · exact h.finish_ok ((hexact q).mpr ⟨hnorm, hval⟩)
  · exact h.finish_error (by simpa only [hexact] using hnone)
  · obtain ⟨q, hq, hexec⟩ := h.finish_completes (s := s) (i := .ffrom fd xa xb) (fd := fd)
      (normalize_completes (k := 31) (by omega) hlow (by omega))
    obtain ⟨hnorm, hval⟩ := (hexact q).mp hq
    exact ⟨q, hnorm, hval, hexec⟩

/-- `normalize` gives a normalized SoftFloat back from its fields (R102, R115). -/
theorem SoftFloat.Normalized.normalize_fields {a : SoftFloat} (h : a.Normalized) :
    normalize a.mant.toInt a.exp.toInt = .ok a :=
  ((normalize_truncates _ _).ok_iff a).mpr h.isTrunc31

/-- The sign of an integer as FSIGN stores it (R119). -/
theorem int32_sgn (v : Int) : int32 (sgn v) = if v < 0 then 0xFFFFFFFF#32 else 1#32 := by
  rw [sgn_eq]; split <;> rfl

/-- FFROM on the two fields of a normalized SoftFloat writes that SoftFloat (R115). -/
theorem exec_ffrom_fields {s : State} {xa xb : XReg} {a : SoftFloat} (fd : FReg) (h : a.Normalized)
    (hmant : s.readX xa = a.mant) (hexp : s.readX xb = a.exp) :
    exec (.ffrom fd xa xb) s = .next ((s.writeF fd a).respond .ok) := by
  rw [exec, execFfrom, hmant, hexp, h.normalize_fields]; rfl

/-- Settles O27: each command writes the field it reads, and the two fields determine a normalized SoftFloat. -/
theorem movesCopyTheFields : Obligations.MovesCopyTheFields := by
  refine ⟨fun _ _ _ => ⟨rfl, rfl, rfl, rfl⟩, fun _ _ _ => rfl, fun _ _ _ => rfl, fun _ _ _ => rfl, fun xd fa s => ?_,
    fun xa xb fd fa s hne ha => ?_⟩
  · rw [← int32_sgn]; rfl
  · have hffrom := exec_ffrom_fields (s := (((s.writeX xa (s.readF fa).mant).respond .ok).writeX xb
      (s.readF fa).exp).respond .ok) (xa := xa) (xb := xb) fd ha
      (by simp [State.readX_writeX_other _ _ _ _ hne.symm]) (by simp)
    exact ⟨_, _, _, rfl, rfl, hffrom, by simp, rfl⟩

/-! ### Bit scans -/

/-- Above the zero bits of a number, the next bit is 1 exactly if no further power of two divides the number. -/
theorem testBit_iff_not_dvd {v i : Nat} (h : 2 ^ i ∣ v) : v.testBit i = true ↔ ¬2 ^ (i + 1) ∣ v := by
  obtain ⟨k, rfl⟩ := h
  have hpos := Nat.two_pow_pos i
  rw [Nat.testBit_eq_decide_div_mod_eq, Nat.mul_div_cancel_left _ hpos, pow_succ, Nat.mul_dvd_mul_iff_left hpos,
    decide_eq_true_iff]
  omega

/-- The scan finds the lowest 1 bit of a number whose bits below the start are 0 and which ends within the scan. -/
theorem lowestBitFrom_dvd {v : Nat} (hv : v ≠ 0) (fuel i : Nat) (hlow : 2 ^ i ∣ v) (hhigh : v < 2 ^ (i + fuel)) :
    2 ^ lowestBitFrom v fuel i ∣ v ∧ ¬2 ^ (lowestBitFrom v fuel i + 1) ∣ v := by
  induction fuel generalizing i with
  | zero => exact absurd (Nat.le_of_dvd (Nat.pos_of_ne_zero hv) hlow) hhigh.not_ge
  | succ fuel ih =>
    rw [lowestBitFrom]
    split
    · next hbit => exact ⟨hlow, (testBit_iff_not_dvd hlow).mp hbit⟩
    · next hbit =>
      have hdvd : 2 ^ (i + 1) ∣ v := not_not.mp (mt (testBit_iff_not_dvd hlow).mpr hbit)
      exact ih (i + 1) hdvd (by rwa [add_right_comm, add_assoc])

/-- `lsb_index` is the exponent of the largest power of two that divides a 32-bit number (R13, R104). -/
theorem lsbIndex_dvd {v : Nat} (hv : v ≠ 0) (h : v < 2 ^ 32) : 2 ^ lsbIndex v ∣ v ∧ ¬2 ^ (lsbIndex v + 1) ∣ v :=
  lowestBitFrom_dvd hv 32 0 (one_dvd v) h

/-- The highest and the lowest 1 bit are the same exactly in a power of two (R121). -/
theorem highest_eq_lowest_iff {v m l : Nat} (hm : 2 ^ m ≤ v ∧ v < 2 ^ (m + 1)) (hl : 2 ^ l ∣ v ∧ ¬2 ^ (l + 1) ∣ v) :
    m = l ↔ ∃ n, v = 2 ^ n := by
  constructor
  · rintro rfl
    obtain ⟨k, rfl⟩ := hl.1
    have hk : k < 2 := Nat.lt_of_mul_lt_mul_left (pow_succ 2 m ▸ hm.2)
    have hk' : k ≠ 0 := by rintro rfl; exact absurd (Nat.two_pow_pos m) hm.1.not_gt
    obtain rfl : k = 1 := by omega
    exact ⟨m, mul_one _⟩
  · rintro ⟨n, rfl⟩
    have hmn := (Nat.pow_le_pow_iff_right one_lt_two).mp hm.1
    have hnm := (Nat.pow_lt_pow_iff_right one_lt_two).mp hm.2
    have hln := (Nat.pow_dvd_pow_iff_le_right one_lt_two).mp hl.1
    have hnl := mt (Nat.pow_dvd_pow_iff_le_right one_lt_two).mpr hl.2
    omega

theorem int32_natCast_toNat {n : Nat} (h : n < 2 ^ 32) : (int32 n).toNat = n := by
  rw [int32, BitVec.ofInt_natCast, BitVec.toNat_ofNat, Nat.mod_eq_of_lt h]

theorem msbResult_toNat {v : Word} (h : v.toNat ≠ 0) : (int32 (msbResult v)).toNat = msbIndex v.toNat := by
  rw [msbResult, if_neg h]
  have hlt : msbIndex v.toNat < 32 := (Nat.log2_lt h).mpr v.isLt
  exact int32_natCast_toNat (by omega)

theorem lsbResult_toNat {v : Word} (h : v.toNat ≠ 0) : (int32 (lsbResult v)).toNat = lsbIndex v.toNat := by
  rw [lsbResult, if_neg h]
  have hle := Nat.le_of_dvd (Nat.pos_of_ne_zero h) (lsbIndex_dvd h v.isLt).1
  have hlt : lsbIndex v.toNat < 32 := (Nat.pow_lt_pow_iff_right one_lt_two).mp (hle.trans_lt v.isLt)
  exact int32_natCast_toNat (by omega)

/-- Settles O28: the scans bracket the pattern between powers of two from above and from below. -/
theorem bitScansFindTheBits : Obligations.BitScansFindTheBits := by
  intro xd xa s
  refine ⟨rfl, rfl, int32 (msbResult (s.readX xa)), int32 (lsbResult (s.readX xa)), rfl, rfl, fun hz => ?_,
    fun hz => ?_⟩
  · rw [hz]; exact ⟨rfl, rfl⟩
  · have hv : (s.readX xa).toNat ≠ 0 := fun h => hz (BitVec.eq_of_toNat_eq h)
    have hm := msbIndex_bounds _ hv
    have hl := lsbIndex_dvd hv (s.readX xa).isLt
    rw [← BitVec.toNat_inj, msbResult_toNat hv, lsbResult_toNat hv]
    exact ⟨hm, hl, highest_eq_lowest_iff hm hl⟩

end Sys2Proof.Machine
end

section
/-! The filter units (41_filters.md): what a push makes of a consistent unit. -/

namespace Sys2Proof.Machine

/-- A sum whose mean is an `int32` is stored exactly, and so is its mean (R140, R142). -/
theorem stored_sum_and_mean {S : Int} {n : Nat} (hn : n ≤ 31) (low : -2147483648 * 2 ^ n ≤ S)
    (high : S < 2147483648 * 2 ^ n) : (int64 S).toInt = S ∧ (int32 (asr S n)).toInt = S / 2 ^ n := by
  have hpos : (0 : Int) < 2 ^ n := by positivity
  have hle : (2 : Int) ^ n ≤ 2 ^ 31 := pow_le_pow_right₀ (by decide) hn
  have hmean_low : -2147483648 ≤ S / 2 ^ n := (Int.le_ediv_iff_mul_le hpos).mpr low
  have hmean_high : S / 2 ^ n < 2147483648 := (Int.ediv_lt_iff_lt_mul hpos).mpr high
  rw [asr_eq_ediv, pow2_eq]
  exact ⟨int64_toInt _ (by omega), int32_toInt _ (by omega)⟩

/-! ### The IIR unit (R142, R143) -/

/-- The sum of a consistent unit lies less than one window above its average's share. -/
theorem Iir.Consistent.sum_brackets {u : Iir} (h : u.Consistent) :
    u.avg.toInt * 2 ^ u.dp.val ≤ u.sum.toInt ∧ u.sum.toInt < (u.avg.toInt + 1) * 2 ^ u.dp.val := by
  rw [← pow2_eq]
  exact (asr_eq_iff _ _ _).mp h.symm

/-- The sum after a push has its mean in every range that holds the average and the sample (R140). -/
theorem Iir.Consistent.next_sum_bounds {u : Iir} (h : u.Consistent) {v : Word} {m M : Int}
    (ha : m ≤ u.avg.toInt ∧ u.avg.toInt ≤ M) (hv : m ≤ v.toInt ∧ v.toInt ≤ M) :
    m * 2 ^ u.dp.val ≤ u.sum.toInt + v.toInt - u.avg.toInt ∧
      u.sum.toInt + v.toInt - u.avg.toInt < (M + 1) * 2 ^ u.dp.val := by
  obtain ⟨low, high⟩ := h.sum_brackets
  have hwindow : (0 : Int) ≤ 2 ^ u.dp.val - 1 := sub_nonneg.mpr (one_le_pow₀ (by decide))
  have hlow := mul_nonneg (sub_nonneg.mpr ha.1) hwindow
  have hhigh := mul_nonneg (sub_nonneg.mpr ha.2) hwindow
  constructor <;> linarith

/-- A push into a consistent unit follows the recurrence over the integers: no stored value is cut (R140, R143). -/
theorem Iir.Consistent.push {u : Iir} (h : u.Consistent) (v : Word) : (iirPush u v).IsPush u v := by
  have hu := word_toInt_range u.avg
  have hv := word_toInt_range v
  obtain ⟨low, high⟩ := h.next_sum_bounds (M := 2147483647) hu hv
  obtain ⟨hsum, hmean⟩ := stored_sum_and_mean (Nat.le_of_lt_succ u.dp.isLt) low high
  exact ⟨rfl, rfl, hsum, hmean.trans (congrArg (· / 2 ^ u.dp.val) hsum.symm)⟩

theorem Iir.IsPush.consistent {u old : Iir} {v : Word} (h : u.IsPush old v) : u.Consistent := by
  obtain ⟨-, hdp, -, havg⟩ := h
  rw [Iir.Consistent, asr_eq_ediv, pow2_eq, hdp, havg]

/-- The average after a push stays in every range that holds it and the sample (R140). -/
theorem Iir.Consistent.push_avg_bounds {u : Iir} (h : u.Consistent) {v : Word} {m M : Int}
    (ha : m ≤ u.avg.toInt ∧ u.avg.toInt ≤ M) (hv : m ≤ v.toInt ∧ v.toInt ≤ M) :
    m ≤ (iirPush u v).avg.toInt ∧ (iirPush u v).avg.toInt ≤ M := by
  obtain ⟨low, high⟩ := h.next_sum_bounds ha hv
  obtain ⟨-, -, hsum, havg⟩ := h.push v
  have hpos : (0 : Int) < 2 ^ u.dp.val := by positivity
  rw [havg, hsum]
  exact ⟨(Int.le_ediv_iff_mul_le hpos).mpr low, Int.lt_add_one_iff.mp ((Int.ediv_lt_iff_lt_mul hpos).mpr high)⟩

theorem Iir.ext_toInt {u w : Iir} (hvalid : u.valid = w.valid) (hdp : u.dp = w.dp)
    (hsum : u.sum.toInt = w.sum.toInt) (havg : u.avg.toInt = w.avg.toInt) : u = w := by
  cases u; cases w
  simp_all [BitVec.toInt_inj]

/-- A sample equal to the average leaves a consistent unit as it is (R147). -/
theorem Iir.Consistent.push_of_avg_eq {u : Iir} (h : u.Consistent) {v : Word} (hv : u.avg = v) : iirPush u v = u := by
  subst hv
  obtain ⟨hvalid, hdp, hsum, havg⟩ := h.push u.avg
  have hsame : (iirPush u u.avg).sum.toInt = u.sum.toInt := hsum.trans (add_sub_cancel_right _ _)
  refine Iir.ext_toInt hvalid hdp hsame ?_
  rw [havg, hsame, h, asr_eq_ediv, pow2_eq]

/-! ### Convergence of the IIR unit (R147) -/

/-- How far the running sum is from the one that a window of `v` gives. -/
def Iir.gap (u : Iir) (v : Word) : Nat := (u.sum.toInt - v.toInt * 2 ^ u.dp.val).natAbs

/-- A push of `v` brings the sum nearer to `v`'s as long as the average is not `v`: the difference between the sample and
the average has the sign of the gap and is never larger. -/
theorem Iir.Consistent.gap_push_lt {u : Iir} (h : u.Consistent) {v : Word} (hne : u.avg ≠ v) :
    (iirPush u v).gap v < u.gap v := by
  obtain ⟨low, high⟩ := h.sum_brackets
  obtain ⟨-, hdp, hsum, -⟩ := h.push v
  have hwindow : (0 : Int) ≤ 2 ^ u.dp.val - 1 := sub_nonneg.mpr (one_le_pow₀ (by decide))
  rw [Iir.gap, Iir.gap, hdp, hsum]
  rcases lt_or_gt_of_ne (mt BitVec.toInt_inj.mp hne) with hlt | hgt
  · have hreach : u.sum.toInt + v.toInt - u.avg.toInt ≤ v.toInt * 2 ^ u.dp.val := by
      linarith [mul_nonneg (show 0 ≤ v.toInt - u.avg.toInt - 1 by omega) hwindow]
    omega
  · have hreach : v.toInt * 2 ^ u.dp.val ≤ u.sum.toInt + v.toInt - u.avg.toInt := by
      linarith [mul_nonneg (show 0 ≤ u.avg.toInt - v.toInt by omega) hwindow]
    omega

theorem Iir.Consistent.pushes {u : Iir} (h : u.Consistent) (v : Word) (n : Nat) : (iirPushes n u v).Consistent := by
  induction n with
  | zero => exact h
  | succ n ih => exact (ih.push v).consistent

/-- The average stays in every range that holds it and the constant (R147). -/
theorem Iir.Consistent.pushes_avg_bounds {u : Iir} (h : u.Consistent) {v : Word} {m M : Int}
    (ha : m ≤ u.avg.toInt ∧ u.avg.toInt ≤ M) (hv : m ≤ v.toInt ∧ v.toInt ≤ M) (n : Nat) :
    m ≤ (iirPushes n u v).avg.toInt ∧ (iirPushes n u v).avg.toInt ≤ M := by
  induction n with
  | zero => exact ha
  | succ n ih => exact (h.pushes v n).push_avg_bounds ih hv

/-- Every push of a constant either finds the average there already or lessens the gap. -/
theorem Iir.Consistent.pushes_reached_or_gap {u : Iir} (h : u.Consistent) (v : Word) (n : Nat) :
    (iirPushes n u v).avg = v ∨ (iirPushes n u v).gap v + n ≤ u.gap v := by
  induction n with
  | zero => exact .inr le_rfl
  | succ n ih =>
    have hn := h.pushes v n
    by_cases havg : (iirPushes n u v).avg = v
    · left
      rw [iirPushes, hn.push_of_avg_eq havg, havg]
    · have hless := hn.gap_push_lt havg
      have hgap := ih.resolve_left havg
      right
      rw [iirPushes]
      omega

/-- Once the average is the constant, the unit no longer changes (R147). -/
theorem Iir.Consistent.pushes_stay {u : Iir} (h : u.Consistent) {v : Word} {n m : Nat}
    (havg : (iirPushes n u v).avg = v) (hle : n ≤ m) : iirPushes m u v = iirPushes n u v := by
  induction m, hle using Nat.le_induction with
  | base => rfl
  | succ m _ ih =>
    rw [iirPushes, ih]
    exact (h.pushes v n).push_of_avg_eq havg

/-! ### The FIR unit (R142, R148) -/

/-- There are `2^dp` slots in use (R31, R141). -/
theorem Fir.length_window (u : Fir) : ((u.buf.toList.take (2 ^ u.dp.val)).map BitVec.toInt).length = 2 ^ u.dp.val := by
  have h := fir_window_le u.dp
  simp [h]

/-- The sum of a window lies between what its least and its greatest possible samples give (R140). -/
theorem Fir.windowSum_bounds (u : Fir) :
    -2147483648 * 2 ^ u.dp.val ≤ u.windowSum ∧ u.windowSum ≤ 2147483647 * 2 ^ u.dp.val := by
  have hrange : ∀ x ∈ (u.buf.toList.take (2 ^ u.dp.val)).map BitVec.toInt, -2147483648 ≤ x ∧ x ≤ 2147483647 := by
    simp only [List.mem_map]
    rintro _ ⟨w, -, rfl⟩
    exact word_toInt_range w
  have low := List.card_nsmul_le_sum _ _ fun x hx => (hrange x hx).1
  have high := List.sum_le_card_nsmul _ _ fun x hx => (hrange x hx).2
  rw [u.length_window, nsmul_eq_mul, mul_comm] at low high
  exact_mod_cast And.intro low high

/-- Units of one depth whose slots in use agree have one window sum. -/
theorem Fir.windowSum_congr {u w : Fir} (hdp : u.dp = w.dp)
    (h : ∀ j : Fin 32, j.val < 2 ^ u.dp.val → u.buf[j.val] = w.buf[j.val]) : u.windowSum = w.windowSum := by
  have hwindow : u.buf.toList.take (2 ^ u.dp.val) = w.buf.toList.take (2 ^ u.dp.val) := by
    refine List.ext_getElem (by simp) fun j hj _ => ?_
    have hlt : j < 2 ^ u.dp.val ∧ j < 32 := by simpa using hj
    simpa using h ⟨j, hlt.2⟩ hlt.1
  rw [Fir.windowSum, Fir.windowSum, ← hdp, hwindow]

/-- A window of one value sums to that value times its length (R148, R152). -/
theorem Fir.windowSum_of_constant {u : Fir} {v : Word}
    (h : ∀ j : Fin 32, j.val < 2 ^ u.dp.val → u.buf[j.val] = v) : u.windowSum = v.toInt * 2 ^ u.dp.val := by
  have hfull : u.windowSum = { u with buf := Vector.replicate 32 v }.windowSum :=
    Fir.windowSum_congr rfl (by simpa using h)
  rw [hfull, Fir.windowSum, Vector.toList_replicate, List.take_replicate, min_eq_left (fir_window_le u.dp),
    List.map_replicate, List.sum_replicate, nsmul_eq_mul, mul_comm]
  norm_cast

/-- A push moves the window sum by the sample less the evicted one, where the cursor is in the window (R148). -/
theorem windowSum_firPush {u : Fir} (hcur : u.cur.val < 2 ^ u.dp.val) (v : Word) :
    (firPush u v).windowSum = u.windowSum + v.toInt - (u.buf[u.cur.val]).toInt := by
  simp only [Fir.windowSum, firPush, Vector.toList_set, List.take_set, List.map_set, List.sum_set']
  rw [dif_pos (u.length_window.symm ▸ hcur), List.getElem_map, List.getElem_take, Vector.getElem_toList]
  ring

/-- The slots after a push (R148). -/
theorem firPush_getElem (u : Fir) (v : Word) (j : Fin 32) :
    (firPush u v).buf[j.val] = if j = u.cur then v else u.buf[j.val] := by
  simp only [firPush, Vector.getElem_set, Fin.ext_iff, eq_comm]

@[simp] theorem firPush_cur_val (u : Fir) (v : Word) : (firPush u v).cur.val = (u.cur.val + 1) % 2 ^ u.dp.val :=
  nextSlot_val u.cur u.dp

/-- A push into a consistent unit follows the recurrence over the integers: no stored value is cut (R140, R148). -/
theorem Fir.Consistent.push {u : Fir} (h : u.Consistent) (v : Word) : (firPush u v).IsPush u v := by
  obtain ⟨hwindow, -, hcur⟩ := h
  obtain ⟨low, high⟩ := (firPush u v).windowSum_bounds
  rw [windowSum_firPush hcur, ← hwindow, firPush_dp] at low high
  have hdp := u.dp.isLt
  have hpos : (0 : Int) < 2 ^ u.dp.val := by positivity
  obtain ⟨hsum, hmean⟩ := stored_sum_and_mean (n := u.dp.val) (by omega) low (by omega)
  exact ⟨rfl, rfl, firPush_cur_val u v, firPush_getElem u v, hsum,
    hmean.trans (congrArg (· / 2 ^ u.dp.val) hsum.symm)⟩

theorem Fir.Consistent.cur_lt {u : Fir} (h : u.Consistent) : u.cur.val < 2 ^ u.dp.val := h.2.2

theorem Fir.Consistent.push_consistent {u : Fir} (h : u.Consistent) (v : Word) : (firPush u v).Consistent := by
  obtain ⟨-, hdp, hcur, -, hsum, havg⟩ := h.push v
  obtain ⟨hwindow, -, hin⟩ := h
  refine ⟨?_, ?_, ?_⟩
  · rw [hsum, windowSum_firPush hin, hwindow]
  · rw [asr_eq_ediv, pow2_eq, hdp, havg]
  · rw [hdp, hcur]
    exact Nat.mod_lt _ (Nat.two_pow_pos _)

theorem Fir.Consistent.foldl_push {u : Fir} (h : u.Consistent) (vs : List Word) : (vs.foldl firPush u).Consistent := by
  induction vs generalizing u with
  | nil => exact h
  | cons v vs ih => exact ih (h.push_consistent v)

@[simp] theorem foldl_firPush_dp (u : Fir) (vs : List Word) : (vs.foldl firPush u).dp = u.dp := by
  induction vs generalizing u with
  | nil => rfl
  | cons v vs ih => exact ih (firPush u v)

/-- The sum and the average of a consistent unit are determined by its window (R31, R32). -/
theorem Fir.Consistent.sum_avg_congr {u w : Fir} (hu : u.Consistent) (hw : w.Consistent) (hdp : u.dp = w.dp)
    (h : ∀ j : Fin 32, j.val < 2 ^ u.dp.val → u.buf[j.val] = w.buf[j.val]) : u.sum = w.sum ∧ u.avg = w.avg := by
  obtain ⟨husum, huavg, -⟩ := hu
  obtain ⟨hwsum, hwavg, -⟩ := hw
  have hsum : u.sum.toInt = w.sum.toInt := by rw [husum, hwsum, Fir.windowSum_congr hdp h]
  exact ⟨BitVec.toInt_inj.mp hsum, BitVec.toInt_inj.mp (by rw [huavg, hwavg, hsum, hdp])⟩

/-! ### Two FIR units fed the same samples (R152) -/

/-- Two units of one depth and cursor whose slots in use agree, but perhaps for the next `k` to be overwritten. -/
structure Fir.AgreeBut (k : Nat) (u w : Fir) : Prop where
  dp : u.dp = w.dp
  cur : u.cur = w.cur
  slots : ∀ j : Fin 32, j.val < 2 ^ u.dp.val →
    (∃ i < k, j.val = (u.cur.val + i) % 2 ^ u.dp.val) ∨ u.buf[j.val] = w.buf[j.val]

/-- Every slot in use is among the next window's length of slots. -/
theorem Fir.agreeBut_window {u w : Fir} (hdp : u.dp = w.dp) (hcur : u.cur = w.cur)
    (hin : u.cur.val < 2 ^ u.dp.val) : u.AgreeBut (2 ^ u.dp.val) w := by
  refine ⟨hdp, hcur, fun j hj => .inl ?_⟩
  rcases le_or_gt u.cur.val j.val with hle | hlt
  · refine ⟨j.val - u.cur.val, by omega, ?_⟩
    rw [Nat.add_sub_cancel' hle, Nat.mod_eq_of_lt hj]
  · refine ⟨j.val + 2 ^ u.dp.val - u.cur.val, by omega, ?_⟩
    rw [Nat.add_sub_cancel' (by omega), Nat.add_mod_right, Nat.mod_eq_of_lt hj]

/-- One sample pushed into both units makes one more slot agree. -/
theorem Fir.AgreeBut.push {u w : Fir} {k : Nat} (h : u.AgreeBut k w) (hin : u.cur.val < 2 ^ u.dp.val) (v : Word) :
    (firPush u v).AgreeBut (k - 1) (firPush w v) := by
  obtain ⟨hdp, hcur, hslots⟩ := h
  have hcur' : (firPush u v).cur = (firPush w v).cur := congrArg₂ nextSlot hcur hdp
  refine ⟨hdp, hcur', fun j hj => ?_⟩
  rw [firPush_getElem, firPush_getElem, ← hcur, firPush_cur_val, firPush_dp]
  by_cases hj' : j = u.cur
  · exact .inr (by rw [if_pos hj', if_pos hj'])
  rw [if_neg hj', if_neg hj']
  rcases hslots j hj with ⟨i, hi, hji⟩ | hsame
  · cases i with
    | zero => exact absurd (Fin.ext (hji.trans (Nat.mod_eq_of_lt hin))) hj'
    | succ i =>
      refine .inl ⟨i, by omega, ?_⟩
      rw [Nat.mod_add_mod, hji, add_right_comm, add_assoc]
  · exact .inr hsame

theorem Fir.AgreeBut.foldl_push {u w : Fir} {k : Nat} (h : u.AgreeBut k w) (hin : u.cur.val < 2 ^ u.dp.val)
    (vs : List Word) : (vs.foldl firPush u).AgreeBut (k - vs.length) (vs.foldl firPush w) := by
  induction vs generalizing u w k with
  | nil => exact h
  | cons v vs ih =>
    have hin' : (firPush u v).cur.val < 2 ^ (firPush u v).dp.val := by
      rw [firPush_cur_val]
      exact Nat.mod_lt _ (Nat.two_pow_pos _)
    rw [List.length_cons, add_comm, ← Nat.sub_sub]
    exact ih (h.push hin v) hin'

/-- A window's length of the same samples makes two units of one depth and cursor agree in every slot in use (R152). -/
theorem Fir.foldl_push_agree {u w : Fir} (hdp : u.dp = w.dp) (hcur : u.cur = w.cur) (hin : u.cur.val < 2 ^ u.dp.val)
    {vs : List Word} (hlen : 2 ^ u.dp.val ≤ vs.length) : (vs.foldl firPush u).AgreeBut 0 (vs.foldl firPush w) := by
  have h := (Fir.agreeBut_window hdp hcur hin).foldl_push hin vs
  rwa [Nat.sub_eq_zero_of_le hlen] at h

theorem Fir.AgreeBut.window_eq {u w : Fir} (h : u.AgreeBut 0 w) (j : Fin 32) (hj : j.val < 2 ^ u.dp.val) :
    u.buf[j.val] = w.buf[j.val] :=
  (h.slots j hj).resolve_left fun ⟨_, hi, _⟩ => absurd hi (Nat.not_lt_zero _)

/-! ### A FIR unit fed a constant (R152) -/

theorem firPushes_eq_foldl (n : Nat) (u : Fir) (v : Word) : firPushes n u v = (List.replicate n v).foldl firPush u := by
  induction n with
  | zero => rfl
  | succ n ih => rw [firPushes, ih, List.replicate_succ', List.foldl_append]; rfl

/-- A ring full of the constant stays full of it. -/
theorem firPushes_full {u : Fir} {v : Word} (h : ∀ j : Fin 32, u.buf[j.val] = v) (n : Nat) (j : Fin 32) :
    (firPushes n u v).buf[j.val] = v := by
  induction n with
  | zero => exact h j
  | succ n ih => rw [firPushes, firPush_getElem, ih, ite_self]

/-- After a window's length of pushes of a constant every slot in use holds it, as in a unit that held nothing else from
the start (R152). -/
theorem firPushes_window {u : Fir} (hin : u.cur.val < 2 ^ u.dp.val) (v : Word) (j : Fin 32)
    (hj : j.val < 2 ^ u.dp.val) : (firPushes (2 ^ u.dp.val) u v).buf[j.val] = v := by
  have hagree := Fir.foldl_push_agree (u := u) (w := { u with buf := Vector.replicate 32 v })
    (vs := List.replicate (2 ^ u.dp.val) v) rfl rfl hin (by simp)
  rw [← firPushes_eq_foldl, ← firPushes_eq_foldl] at hagree
  have hslot := hagree.window_eq j (by rwa [firPushes_eq_foldl, foldl_firPush_dp])
  exact hslot.trans (firPushes_full (by simp) _ j)

/-- A consistent unit whose slots in use hold one value has that average and its sum (R152). -/
theorem Fir.Consistent.of_constant {u : Fir} (h : u.Consistent) {v : Word}
    (hv : ∀ j : Fin 32, j.val < 2 ^ u.dp.val → u.buf[j.val] = v) :
    u.avg = v ∧ u.sum.toInt = v.toInt * 2 ^ u.dp.val := by
  obtain ⟨hsum, havg, -⟩ := h
  have hconst : u.sum.toInt = v.toInt * 2 ^ u.dp.val := hsum.trans (Fir.windowSum_of_constant hv)
  refine ⟨BitVec.toInt_inj.mp ?_, hconst⟩
  rw [havg, hconst, ← pow2_eq]
  exact asr_shl _ _

/-! ### New units (R143, R148) -/

/-- The sum of a new unit is stored exactly (R140). -/
theorem stored_new_sum {n : Nat} (hn : n ≤ 31) (v : Word) : (int64 (shl v.toInt n)).toInt = v.toInt * 2 ^ n := by
  have hv := word_toInt_range v
  have hpos : (0 : Int) < 2 ^ n := by positivity
  rw [shl, pow2_eq]
  exact (stored_sum_and_mean hn (mul_le_mul_of_nonneg_right hv.1 hpos.le)
    (mul_lt_mul_of_pos_right (by omega) hpos)).1

theorem iirNew_isNew (dp : Fin 32) (v : Word) : (iirNew dp v).IsNew dp.val v :=
  ⟨rfl, rfl, rfl, stored_new_sum (Nat.le_of_lt_succ dp.isLt) v⟩

theorem firNew_isNew (old : Fir) (dp : Fin 6) (v : Word) : (firNew old dp v).IsNew old dp.val v :=
  ⟨rfl, rfl, rfl, stored_new_sum (by omega) v, rfl, fun j => fillSlots_getElem _ v old.buf j.val j.isLt⟩

/-- A new unit is consistent (R152). -/
theorem firNew_consistent (old : Fir) (dp : Fin 6) (v : Word) : (firNew old dp v).Consistent := by
  obtain ⟨-, -, -, hsum, -, hbuf⟩ := firNew_isNew old dp v
  refine ⟨?_, ?_, Nat.two_pow_pos _⟩
  · rw [hsum]
    exact (Fir.windowSum_of_constant (u := firNew old dp v) fun j hj => (hbuf j).trans (if_pos hj)).symm
  · rw [hsum, ← pow2_eq]
    exact (asr_shl _ _).symm

end Sys2Proof.Machine
end

section
/-! The statements about the filter units (41_filters.md). -/

namespace Sys2Proof.Machine

/-- A depth power above the limit is refused (R141). -/
theorem iirDepth_error {dp : Nat} (h : 31 < dp) : iirDepth dp = .error .filterConfig := dif_neg h.not_ge

theorem firDepth_error {dp : Nat} (h : 5 < dp) : firDepth dp = .error .filterConfig := dif_neg h.not_ge

/-- Settles O29: the depth check and the validity check decide the fault, and consistency keeps the recurrence exact. -/
theorem iirCommandsFollowTheRecurrence : Obligations.IirCommandsFollowTheRecurrence := by
  refine ⟨fun _ _ _ _ => ⟨rfl, rfl, rfl⟩, fun u xa dp s => ⟨fun hdp => ?_, fun hdp => ?_⟩,
    fun u xa s => ⟨fun hvalid hcons => ?_, fun hvalid => ?_⟩, fun xd u s => ⟨fun hvalid => ?_, fun hvalid => ?_⟩⟩
  · have hdepth := (iirDepth_eq_ok_iff dp.toNat ⟨dp.toNat, Nat.lt_succ_of_le hdp⟩).mpr rfl
    refine ⟨_, iirNew_isNew ⟨dp.toNat, Nat.lt_succ_of_le hdp⟩ (s.readX xa), ?_⟩
    rw [exec, execIirnew, hdepth]; rfl
  · rw [exec, execIirnew, iirDepth_error hdp]; rfl
  · refine ⟨_, hcons.push (s.readX xa), ?_⟩
    rw [exec, execIirpush, hvalid]; rfl
  · rw [exec, execIirpush, hvalid]; rfl
  · rw [exec, execIiravg, hvalid]; rfl
  · rw [exec, execIiravg, hvalid]; rfl

/-- Settles O30: the gap bounds the number of pushes to the constant, and every push stays on its side. -/
theorem iirConvergesToAConstant : Obligations.IirConvergesToAConstant := by
  refine ⟨fun u v h => ⟨⟨u.gap v + 1, fun m hm => ?_⟩, fun n hle => ?_, fun n hle => ?_⟩, by decide +kernel⟩
  · have hreached := (h.pushes_reached_or_gap v (u.gap v + 1)).resolve_right (by omega)
    have hstay := h.pushes_stay hreached hm
    exact ⟨hstay ▸ hreached, hstay⟩
  · exact (h.pushes_avg_bounds ⟨le_rfl, hle⟩ ⟨hle, le_rfl⟩ n).2
  · exact (h.pushes_avg_bounds ⟨hle, le_rfl⟩ ⟨le_rfl, hle⟩ n).1

/-- Settles O32: as for the IIR unit, with the window sum in place of the old average. -/
theorem firCommandsFollowTheRecurrence : Obligations.FirCommandsFollowTheRecurrence := by
  refine ⟨fun _ _ _ _ => ⟨rfl, rfl, rfl⟩, fun u xa dp s => ⟨fun hdp => ?_, fun hdp => ?_⟩,
    fun u xa s => ⟨fun hvalid hcons => ?_, fun hvalid => ?_⟩, fun xd u s => ⟨fun hvalid => ?_, fun hvalid => ?_⟩⟩
  · have hdepth := (firDepth_eq_ok_iff dp.toNat ⟨dp.toNat, Nat.lt_succ_of_le hdp⟩).mpr rfl
    refine ⟨_, firNew_isNew (s.readFir u) ⟨dp.toNat, Nat.lt_succ_of_le hdp⟩ (s.readX xa), ?_⟩
    rw [exec, execFirnew, hdepth]; rfl
  · rw [exec, execFirnew, firDepth_error hdp]; rfl
  · refine ⟨_, hcons.push (s.readX xa), ?_⟩
    rw [exec, execFirpush, hvalid]; rfl
  · rw [exec, execFirpush, hvalid]; rfl
  · rw [exec, execFiravg, hvalid]; rfl
  · rw [exec, execFiravg, hvalid]; rfl

/-- Settles O33: a window's length of samples overwrites every slot in use, and the window determines the rest. -/
theorem firWindowFillsWithAConstant : Obligations.FirWindowFillsWithAConstant := by
  refine ⟨fun u v h => ?_, fun u w vs hu hw hdp hcur hlen => ?_, fun u dp v => ⟨rfl, firNew_consistent u dp v⟩⟩
  · have hfull := firPushes_window h.cur_lt v
    have hdp : (firPushes (2 ^ u.dp.val) u v).dp = u.dp := by rw [firPushes_eq_foldl, foldl_firPush_dp]
    have hcons : (firPushes (2 ^ u.dp.val) u v).Consistent := firPushes_eq_foldl _ u v ▸ h.foldl_push _
    obtain ⟨havg, hsum⟩ := hcons.of_constant (v := v) (by rwa [hdp])
    rw [hdp] at hsum
    exact ⟨havg, hsum, hfull⟩
  · have hagree := Fir.foldl_push_agree hdp hcur hu.cur_lt hlen
    obtain ⟨hsum, havg⟩ := (hu.foldl_push vs).sum_avg_congr (hw.foldl_push vs) hagree.dp hagree.window_eq
    exact ⟨hsum, havg, hagree.cur, fun j hj => hagree.window_eq j (by rwa [foldl_firPush_dp])⟩

end Sys2Proof.Machine
end

section
/-! The coefficient fields out of the byte buffer, as the integers they spell (R160, R161). -/

namespace Sys2Proof.Machine

/-! ### Sign extension of a field (R160) -/

/-- A field moved up by `k` bits spells `2^k` times the value. -/
theorem signedValue_mul_pow2 {v w : Nat} (k : Nat) (hw : 1 ≤ w) :
    signedValue (v * 2 ^ k) (w + k) = signedValue v w * pow2 k := by
  have htop : 2 ^ (w + k - 1) = 2 ^ (w - 1) * 2 ^ k := by rw [← pow_add]; congr 1; omega
  have hk := Nat.two_pow_pos k
  simp only [signedValue, htop, Nat.mul_lt_mul_right hk, pow2_eq, pow_add]
  split <;> push_cast <;> ring

/-- `sext_32` reads two's complement of 32 bits. -/
theorem sext32_eq_signedValue {v : Nat} (h : v < 2 ^ 32) : sext32 v = signedValue v 32 := by
  rw [sext32, BitVec.toInt_eq_toNat_cond, BitVec.toNat_ofNat, Nat.mod_eq_of_lt h, signedValue]
  split <;> split <;> omega

/-- Moving a field to the top of a word and shifting it back reads its two's complement (R160). -/
theorem sextField_eq_signedValue {v w : Nat} (hw : 1 ≤ w ∧ w ≤ 32) (hv : v < 2 ^ w) :
    sextField v w = signedValue v w := by
  have hfit : v * 2 ^ (32 - w) < 2 ^ 32 :=
    calc v * 2 ^ (32 - w) < 2 ^ w * 2 ^ (32 - w) := Nat.mul_lt_mul_of_pos_right hv (Nat.two_pow_pos _)
      _ = 2 ^ 32 := by rw [← pow_add, Nat.add_sub_cancel' hw.2]
  have hscale := signedValue_mul_pow2 (v := v) (32 - w) hw.1
  rw [Nat.add_sub_cancel' hw.2] at hscale
  rw [sextField, Nat.mod_eq_of_lt hfit, sext32_eq_signedValue hfit, hscale]
  exact asr_shl _ _

/-- A field of at most 32 bits is an `int32` (R160). -/
theorem signedValue_range {v w : Nat} (hw : 1 ≤ w ∧ w ≤ 32) (hv : v < 2 ^ w) :
    -2147483648 ≤ signedValue v w ∧ signedValue v w ≤ 2147483647 := by
  have htop : 2 ^ w = 2 ^ (w - 1) * 2 := by rw [← pow_succ, Nat.sub_add_cancel hw.1]
  have hbits : 2 ^ (w - 1) ≤ 2 ^ 31 := Nat.pow_le_pow_right two_pos (by omega)
  have hcast : (2 : Int) ^ w = (2 ^ w : Nat) := by push_cast; rfl
  rw [signedValue, hcast]
  split <;> omega

/-- A valid layout names fields of 1 to 32 bits (R160, R161). -/
theorem width_of_valid {p : Params} (h : p.valid = true) {i : Nat} (hi : i < 9) :
    1 ≤ p.coefLayout[i].width ∧ p.coefLayout[i].width ≤ 32 := by
  have hfield := List.all_eq_true.mp h _ (Vector.mem_toList_iff.mpr (Vector.getElem_mem hi))
  simp only [CoefField.valid, Bool.and_eq_true, decide_eq_true_eq] at hfield
  exact hfield.1

/-- A decoded coefficient is stored as the two's complement value of its field (R161, R162). -/
theorem int32_coefValue_toInt {p : Params} (h : p.valid = true) (coef : Vector Byte 18) {i : Nat} (hi : i < 9) :
    (int32 (coefValue coef p.coefLayout[i])).toInt =
      signedValue (rawField coef p.coefLayout[i]) p.coefLayout[i].width := by
  have hw := width_of_valid h hi
  have hv : rawField coef p.coefLayout[i] < 2 ^ p.coefLayout[i].width := Nat.mod_lt _ (Nat.two_pow_pos _)
  rw [coefValue, sextField_eq_signedValue hw hv]
  exact int32_toInt _ (signedValue_range hw hv)

/-- CINIT decodes every field as CEXT does (R162, R167). -/
theorem decodeCoefs_getElem (layout : Vector CoefField 9) (coef : Vector Byte 18) (i : Fin 9) :
    (decodeCoefs layout coef)[i.val] = int32 (coefValue coef layout[i.val]) := by
  fin_cases i <;> rfl

end Sys2Proof.Machine
end

section
/-! The coefficients of CINIT as chains of truncated quotients, the order of its checks, and the places that KSEL and
CGET read (R164, R167, R168). -/

namespace Sys2Proof.Machine

/-! ### Computations that answer what a relation describes -/

/-- The computation `m` answers the values that `P` describes, and raises `ExponentRange` where there is none: what
`Truncates` says of one operation, for a sequence of them. -/
structure Answers {α : Type} (m : Except Cause α) (P : α → Prop) : Prop where
  ok_iff : ∀ a, m = .ok a ↔ P a
  cause : ∀ c, m = .error c → c = .exponentRange

theorem Truncates.answers {m : Except Cause SoftFloat} {y : ℚ} (h : Truncates m y) : Answers m (IsTrunc31 · y) :=
  ⟨h.ok_iff, h.cause⟩

section
variable {α β : Type} {m : Except Cause α} {P : α → Prop}

theorem answers_ok (a : α) : Answers (.ok a) (a = ·) := ⟨fun _ => by simp, nofun⟩

theorem Answers.congr (h : Answers m P) {Q : α → Prop} (hPQ : ∀ a, P a ↔ Q a) : Answers m Q :=
  ⟨fun a => (h.ok_iff a).trans (hPQ a), h.cause⟩

/-- One computation after another answers what the one relation after the other describes. -/
theorem Answers.bind (h : Answers m P) {f : α → Except Cause β} {Q : α → β → Prop}
    (hf : ∀ a, P a → Answers (f a) (Q a)) : Answers (m >>= f) (fun b => ∃ a, P a ∧ Q a b) := by
  cases m with
  | ok a =>
    have ha := (h.ok_iff a).mp rfl
    have honly : ∀ a', P a' → a = a' := fun a' ha' => Except.ok.inj ((h.ok_iff a').mpr ha')
    refine ⟨fun b => ⟨fun hb => ⟨a, ha, ((hf a ha).ok_iff b).mp hb⟩, ?_⟩, (hf a ha).cause⟩
    rintro ⟨a', ha', hb⟩
    obtain rfl := honly a' ha'
    exact ((hf a ha).ok_iff b).mpr hb
  | error c =>
    refine ⟨fun b => ⟨nofun, ?_⟩, fun c' hc => h.cause c' (by cases hc; rfl)⟩
    rintro ⟨a, ha, -⟩
    cases (h.ok_iff a).mpr ha

theorem Answers.eq_ok (h : Answers m P) {a : α} (ha : P a) : m = .ok a := (h.ok_iff a).mpr ha

theorem Answers.eq_error (h : Answers m P) (hnone : ¬∃ a, P a) : m = .error .exponentRange := by
  cases m with
  | ok a => exact absurd ⟨a, (h.ok_iff a).mp rfl⟩ hnone
  | error c => rw [h.cause c rfl]

end

/-! ### Chains of divisions (R113, R167) -/

/-- A normalized SoftFloat whose exponent is at most `b` away from 0; `Tame` is the case `b = 2^29`. -/
def SoftFloat.Bounded (a : SoftFloat) (b : Int) : Prop := a.Normalized ∧ -b ≤ a.exp.toInt ∧ a.exp.toInt ≤ b

/-- What a scale factor must be for the division by it to have a meaning (R167). -/
def SoftFloat.IsDivisor (k : SoftFloat) : Prop := k.Normalized ∧ k.mant ≠ 0

/-- Where the intermediate result has at most `n + 1` bits, the answer's exponent stays within a bound (R101). -/
theorem normalize_bounded {r e b : Int} {n : Nat} (hr : r.natAbs < 2 ^ (n + 1)) (low : -b ≤ e - 30)
    (high : e + n - 30 ≤ b) (hb : 0 ≤ b ∧ b ≤ 2147483647) : ∃ q, normalize r e = .ok q ∧ q.Bounded b := by
  by_cases hz : r = 0
  · exact ⟨SoftFloat.zero, by rw [hz, normalize_zero], .inl rfl, neg_nonpos.mpr hb.1, hb.1⟩
  · have hi : msbIndex r.natAbs < n + 1 := (Nat.log2_lt (Int.natAbs_ne_zero.mpr hz)).mpr hr
    rcases normalize_nonzero r e hz with ⟨q, hq, -, hx⟩ | ⟨-, hrange⟩
    · exact ⟨q, hq, normalize_normalized _ _ q hq, by omega, by omega⟩
    · exact absurd (by omega) hrange

/-- Every `int32` has a SoftFloat of exactly its value, with an exponent near 0 (R115). -/
theorem normalize_word (n : Word) : ∃ q, normalize n.toInt 0 = .ok q ∧ q.Bounded 30 ∧ q.val = n.toInt := by
  have hn := word_toInt_range n
  obtain ⟨q, hq, hb⟩ := normalize_bounded (r := n.toInt) (e := 0) (b := 30) (n := 31) (by omega) (by omega) (by omega)
    (by omega)
  exact ⟨q, hq, hb, by rw [normalize_word_exact n hq, zpow_zero, mul_one]⟩

/-- A division by an inner factor moves the bound on the exponent by `2^29 + 62` at most (R113). -/
theorem fDiv_bounded {a k : SoftFloat} {b : Int} (ha : a.Bounded b) (hk : k.IsDivisor) (hinner : k.InnerExponent)
    (hb : 0 ≤ b ∧ b + 536870974 ≤ 2147483647) : ∃ q, fDiv a k = .ok q ∧ q.Bounded (b + 536870974) := by
  obtain ⟨hnorm, halow, hahigh⟩ := ha
  obtain ⟨hklow, hkhigh⟩ := hinner
  rw [fDiv_eq_normalize hk.2]
  refine normalize_bounded (n := 62) ?_ (by omega) (by omega) (by omega)
  rw [Int.natAbs_tdiv, Int.natAbs_mul]
  exact (Nat.div_le_self _ _).trans_lt (Nat.mul_lt_mul_of_pos_right hnorm.natAbs_lt (by decide))

/-- Dividing by each factor in turn answers the chain of truncated quotients (R167). -/
theorem foldlM_fDiv_answers {a : SoftFloat} (ha : a.Normalized) :
    ∀ {ks : List SoftFloat}, (∀ k ∈ ks, k.IsDivisor) → Answers (ks.foldlM fDiv a) (IsQuotientChain · a.val ks)
  | [], _ => (truncates_ok ha.isTrunc31).answers
  | k :: ks, hks => by
    obtain ⟨hk, hks⟩ := List.forall_mem_cons.mp hks
    rw [List.foldlM_cons]
    exact (fDiv_truncates ha hk.1 hk.2).answers.bind fun m hm => foldlM_fDiv_answers hm.1 hks

/-- By inner factors a chain of truncated quotients exists, as long as the exponents' bounds add up inside `int32`. -/
theorem exists_quotientChain {a : SoftFloat} {b : Int} (ha : a.Bounded b) (hb : 0 ≤ b) {ks : List SoftFloat}
    (hks : ∀ k ∈ ks, k.IsDivisor ∧ k.InnerExponent) (hlen : b + ks.length * 536870974 ≤ 2147483647) :
    ∃ q, IsQuotientChain q a.val ks := by
  induction ks generalizing a b with
  | nil => exact ⟨a, ha.1.isTrunc31⟩
  | cons k ks ih =>
    obtain ⟨⟨hk, hinner⟩, hks⟩ := List.forall_mem_cons.mp hks
    rw [List.length_cons, Nat.cast_succ] at hlen
    obtain ⟨m, hm, hmb⟩ := fDiv_bounded ha hk hinner ⟨hb, by omega⟩
    obtain ⟨q, hq⟩ := ih hmb (by omega) hks (by omega)
    exact ⟨q, m, ((fDiv_truncates ha.1 hk.1 hk.2).ok_iff m).mp hm, hq⟩

/-! ### The scaled coefficients (R167) -/

/-- One coefficient of CINIT: the decoded integer divided by each of its factors in turn. -/
def scaleCoef (r : Word) (ks : List SoftFloat) : Except Cause SoftFloat := normalize r.toInt 0 >>= ks.foldlM fDiv

/-- The factors of each coefficient, by degree (R38, R167). -/
def scaleDivisors (kt kp : SoftFloat) : Vector (List SoftFloat) 9 :=
  #v[[], [kt], [], [kp], [kt], [kp, kt], [kp, kp], [kp, kp, kt], [kp, kp, kp]]

/-- CINIT computes the nine coefficients one after another, each from its own integer and factors. -/
theorem scaleCoefs_eq (r : Vector Word 9) (kt kp : SoftFloat) :
    scaleCoefs r kt kp = do
      let n0 ← scaleCoef r[0] []
      let n1 ← scaleCoef r[1] [kt]
      let n2 ← scaleCoef r[2] []
      let n3 ← scaleCoef r[3] [kp]
      let n4 ← scaleCoef r[4] [kt]
      let n5 ← scaleCoef r[5] [kp, kt]
      let n6 ← scaleCoef r[6] [kp, kp]
      let n7 ← scaleCoef r[7] [kp, kp, kt]
      let n8 ← scaleCoef r[8] [kp, kp, kp]
      return #v[n0, n1, n2, n3, n4, n5, n6, n7, n8] := by
  simp only [scaleCoefs, scaleCoef, List.foldlM_cons, List.foldlM_nil, bind_assoc, bind_pure]

theorem isScaledSet_iff (n : Vector SoftFloat 9) (r : Vector Word 9) (kt kp : SoftFloat) :
    IsScaledSet n r kt kp ↔ ∀ i : Fin 9, IsQuotientChain n[i.val] r[i.val].toInt (scaleDivisors kt kp)[i.val] := by
  simp only [Fin.forall_fin_succ, IsEmpty.forall_iff, and_true]
  rfl

/-- What holds of both scale factors holds of every factor of every coefficient. -/
theorem forall_mem_scaleDivisors {P : SoftFloat → Prop} {kt kp : SoftFloat} (hkt : P kt) (hkp : P kp) (i : Fin 9) :
    ∀ k ∈ (scaleDivisors kt kp)[i.val], P k := by
  fin_cases i <;> simp [scaleDivisors, hkt, hkp]

theorem length_scaleDivisors (kt kp : SoftFloat) (i : Fin 9) : (scaleDivisors kt kp)[i.val].length ≤ 3 := by
  fin_cases i <;> simp [scaleDivisors]

theorem scaleCoef_answers (r : Word) {ks : List SoftFloat} (hks : ∀ k ∈ ks, k.IsDivisor) :
    Answers (scaleCoef r ks) (IsQuotientChain · r.toInt ks) := by
  obtain ⟨a, ha, hb, hval⟩ := normalize_word r
  rw [scaleCoef, ha, ← hval]
  exact foldlM_fDiv_answers hb.1 hks

/-- The nine coefficients are computed one after another, and each is a chain of its own. -/
theorem scaleCoefs_answers (r : Vector Word 9) {kt kp : SoftFloat} (hkt : kt.IsDivisor) (hkp : kp.IsDivisor) :
    Answers (scaleCoefs r kt kp) (IsScaledSet · r kt kp) := by
  have each (i : Fin 9) : Answers (scaleCoef r[i.val] (scaleDivisors kt kp)[i.val])
      (IsQuotientChain · r[i.val].toInt (scaleDivisors kt kp)[i.val]) :=
    scaleCoef_answers _ (forall_mem_scaleDivisors hkt hkp i)
  rw [scaleCoefs_eq]
  refine ((each 0).bind fun n0 _ => (each 1).bind fun n1 _ => (each 2).bind fun n2 _ => (each 3).bind fun n3 _ =>
    (each 4).bind fun n4 _ => (each 5).bind fun n5 _ => (each 6).bind fun n6 _ => (each 7).bind fun n7 _ =>
    (each 8).bind fun n8 _ => answers_ok #v[n0, n1, n2, n3, n4, n5, n6, n7, n8]).congr fun n => ⟨?_, ?_⟩
  · rintro ⟨n0, h0, n1, h1, n2, h2, n3, h3, n4, h4, n5, h5, n6, h6, n7, h7, n8, h8, rfl⟩
    exact ⟨h0, h1, h2, h3, h4, h5, h6, h7, h8⟩
  · rintro ⟨h0, h1, h2, h3, h4, h5, h6, h7, h8⟩
    refine ⟨_, h0, _, h1, _, h2, _, h3, _, h4, _, h5, _, h6, _, h7, _, h8, ?_⟩
    ext i hi : 1
    interval_cases i <;> rfl

/-- Factors with inner exponents scale every set of integers (R167). -/
theorem exists_scaledSet (r : Vector Word 9) {kt kp : SoftFloat} (hkt : kt.IsDivisor ∧ kt.InnerExponent)
    (hkp : kp.IsDivisor ∧ kp.InnerExponent) : ∃ n, IsScaledSet n r kt kp := by
  have each (i : Fin 9) : ∃ q, IsQuotientChain q r[i.val].toInt (scaleDivisors kt kp)[i.val] := by
    obtain ⟨a, -, hb, hval⟩ := normalize_word r[i.val]
    have hlen := length_scaleDivisors kt kp i
    rw [← hval]
    exact exists_quotientChain hb (by decide) (forall_mem_scaleDivisors hkt hkp i) (by omega)
  choose q hq using each
  exact ⟨.ofFn q, (isScaledSet_iff ..).mpr fun i => by simpa using hq i⟩

/-! ### CINIT in the order of its checks (R167) -/

section
variable {p : Params} {c : Context} (unlocked : c.calibrated = false)
include unlocked

/-- A zero factor is found before anything is decoded (R167). -/
theorem calibrate_zero_factor (hzero : c.kt.mant = 0 ∨ c.kp.mant = 0) :
    calibrate p c = .error .divisionByZero := by
  have hcheck : (c.kt.mant != 0 && c.kp.mant != 0) = false := by
    rcases hzero with h | h <;> simp [h]
  rw [calibrate, unlocked, hcheck]
  rfl

/-- Past its checks CINIT decodes and scales (R167). -/
theorem calibrate_of_checks (hkt : c.kt.mant ≠ 0) (hkp : c.kp.mant ≠ 0) :
    calibrate p c = (scaleCoefs (decodeCoefs p.coefLayout c.coef) c.kt c.kp).map fun n =>
      { c with craw := decodeCoefs p.coefLayout c.coef, c := n, calibrated := true } := by
  have hcheck : (c.kt.mant != 0 && c.kp.mant != 0) = true :=
    Bool.and_eq_true_iff.mpr ⟨bne_iff_ne.mpr hkt, bne_iff_ne.mpr hkp⟩
  simp only [calibrate, unlocked, hcheck, Bool.not_false, require_true]
  cases scaleCoefs (decodeCoefs p.coefLayout c.coef) c.kt c.kp <;> rfl

/-- CINIT stores the scaled coefficients where every quotient has a SoftFloat (R167). -/
theorem calibrate_eq_ok (hkt : c.kt.IsDivisor) (hkp : c.kp.IsDivisor) {n : Vector SoftFloat 9}
    (hn : IsScaledSet n (decodeCoefs p.coefLayout c.coef) c.kt c.kp) :
    calibrate p c = .ok { c with craw := decodeCoefs p.coefLayout c.coef, c := n, calibrated := true } := by
  rw [calibrate_of_checks unlocked hkt.2 hkp.2, (scaleCoefs_answers _ hkt hkp).eq_ok hn]; rfl

/-- CINIT raises `ExponentRange` where a quotient has none (R103, R167). -/
theorem calibrate_eq_error (hkt : c.kt.IsDivisor) (hkp : c.kp.IsDivisor)
    (hnone : ¬∃ n, IsScaledSet n (decodeCoefs p.coefLayout c.coef) c.kt c.kp) :
    calibrate p c = .error .exponentRange := by
  rw [calibrate_of_checks unlocked hkt.2 hkp.2, (scaleCoefs_answers _ hkt hkp).eq_error hnone]; rfl

end

/-! ### The scale table (R164) -/

/-- Every entry of the scale table has a SoftFloat of exactly its value (R164). -/
theorem scaleFactor_exact (p : Params) (code : Fin 8) :
    ∃ q, scaleFactor p code = .ok q ∧ q.Normalized ∧ q.val = (p.scaleTable[code.val]).toInt := by
  obtain ⟨q, hq, hb, hval⟩ := normalize_word p.scaleTable[code.val]
  exact ⟨q, hq, hb.1, hval⟩

/-! ### The places CGET names (R53, R168) -/

/-- The port shows the two words of every SoftFloat place at its number and the next (R53). -/
theorem portMap_place (p : Place) :
    portMap p.mantNumber = some (.mant p) ∧ portMap (p.mantNumber + 1) = some (.exp p) := by
  cases p
  case f i => revert i; decide
  case c k i => revert k i; decide
  case kt k | kp k | tcomp k | pcomp k => revert k; decide

theorem portRead_place (s : State) (p : Place) :
    { mant := s.portRead p.mantNumber, exp := s.portRead (p.mantNumber + 1) : SoftFloat } = s.place p := by
  obtain ⟨hmant, hexp⟩ := portMap_place p
  rw [State.portRead, hmant, State.portRead, hexp]
  rfl

/-- A legal index of CGET names the place whose words stand at R53's number for it (R168). -/
theorem named_place (s : State) (k : CtxId) {i r : Nat}
    (h : i ≤ 8 ∧ r = 0x140 + 0x100 * k.val + 2 * i ∨ 9 ≤ i ∧ i ≤ 12 ∧ r = 0x104 + 0x100 * k.val + 2 * (i - 9)) :
    ∃ p : Place, (s.readCtx k).named i = some (s.place p) ∧ r = p.mantNumber := by
  rcases h with ⟨hi, hr⟩ | ⟨hlow, hhigh, hr⟩
  · exact ⟨.c k ⟨i, by omega⟩, dif_pos (by omega), by simp only [hr, Place.mantNumber, ctxBase]; omega⟩
  · replace hr : r = ctxBase k + (0x04 + 2 * (i - 9)) := by rw [hr, ctxBase]; omega
    obtain rfl | rfl | rfl | rfl : i = 9 ∨ i = 10 ∨ i = 11 ∨ i = 12 := by omega
    exacts [⟨.kt k, rfl, hr⟩, ⟨.kp k, rfl, hr⟩, ⟨.tcomp k, rfl, hr⟩, ⟨.pcomp k, rfl, hr⟩]

/-- An index from 13 on names nothing (R168). -/
theorem named_illegal (c : Context) {i : Nat} (h : 13 ≤ i) : c.named i = none := by
  obtain ⟨j, rfl⟩ := Nat.exists_eq_add_of_le' h
  rw [Context.named, dif_neg (by omega)]
  rfl

end Sys2Proof.Machine
end

section
/-! The statements about the calibration decoder (42_calibration.md). -/

namespace Sys2Proof.Machine

/-- Settles O35: the index names a field of the layout, whose width makes its sign extension exact. -/
theorem cextReadsTheField : Obligations.CextReadsTheField := by
  refine fun xd k i s hvalid => ⟨rfl, fun hi => ⟨_, int32_coefValue_toInt hvalid _ hi, ?_⟩, fun hi => ?_⟩
  · rw [exec, execCext, dif_pos hi]; rfl
  · rw [exec, execCext, dif_neg (by omega)]; rfl

/-- Settles O36: the table entries are converted exactly, and the lock is checked first. -/
theorem scaleFactorsAreSetUntilLocked : Obligations.ScaleFactorsAreSetUntilLocked := by
  refine ⟨fun _ _ => ⟨rfl, rfl, rfl⟩, fun k s unlocked => ?_, fun k fa s unlocked => ?_, fun k fa ch s locked => ?_⟩
  · obtain ⟨kt, hkt, hktn, hktv⟩ := scaleFactor_exact s.params (tOsr (s.readCtx k).mcfg)
    obtain ⟨kp, hkp, hkpn, hkpv⟩ := scaleFactor_exact s.params (pOsr (s.readCtx k).mcfg)
    refine ⟨kt, kp, hktn, hktv, hkpn, hkpv, ?_⟩
    rw [exec, execKsel, unlocked, hkt, hkp]; rfl
  · constructor <;> rw [exec, execKset, unlocked] <;> rfl
  · obtain ⟨hksel, hkset, -⟩ := exec_calibration_locked s k fa ch locked
    exact ⟨hksel, hkset⟩

/-- Settles O37: the checks come first, and the nine chains of divisions decide the rest. -/
theorem cinitDecodesAndScales : Obligations.CinitDecodesAndScales := by
  refine ⟨fun _ => rfl, fun k s locked => ?_, fun k s unlocked hzero => ?_,
    fun k s hvalid unlocked hkt hkp hktm hkpm => ?_⟩
  · obtain ⟨-, -, hcinit⟩ := exec_calibration_locked s k 0 .temperature locked
    exact hcinit
  · rw [exec, execCinit, calibrate_zero_factor unlocked hzero]; rfl
  · have hkt : (s.readCtx k).kt.IsDivisor := ⟨hkt, hktm⟩
    have hkp : (s.readCtx k).kp.IsDivisor := ⟨hkp, hkpm⟩
    refine ⟨decodeCoefs s.params.coefLayout (s.readCtx k).coef, fun i => ?_, fun n hn => ?_, fun hnone => ?_,
      fun hkti hkpi => ?_⟩
    · rw [decodeCoefs_getElem, int32_coefValue_toInt hvalid _ i.isLt]
    · rw [exec, execCinit, calibrate_eq_ok unlocked hkt hkp hn]; rfl
    · rw [exec, execCinit, calibrate_eq_error unlocked hkt hkp hnone]; rfl
    · obtain ⟨n, hn⟩ := exists_scaledSet (decodeCoefs s.params.coefLayout (s.readCtx k).coef) ⟨hkt, hkti⟩ ⟨hkp, hkpi⟩
      refine ⟨n, hn, ?_⟩
      rw [exec, execCinit, calibrate_eq_ok unlocked hkt hkp hn]; rfl

/-- Settles O38: the place an index names is the one the port shows at the number. -/
theorem cgetReadsTheNamedPlace : Obligations.CgetReadsTheNamedPlace := by
  refine fun fd k i s => ⟨rfl, fun r hr => ?_, fun hi => ?_⟩
  · obtain ⟨p, hnamed, rfl⟩ := named_place s k hr
    rw [exec, execCget, hnamed, portRead_place]; rfl
  · rw [exec, execCget, named_illegal _ hi]; rfl

end Sys2Proof.Machine
end

section
/-! The compensation evaluator (43_compensation.md): the raw counts, the two polynomials as sequences of truncated
operations, and the bound on the exponents along them (R180 to R182). -/

namespace Sys2Proof.Machine

/-! ### Raw counts (R57, R180) -/

/-- Three bytes as one number, the first most significant (R57). -/
theorem bigEndian_three (raw : Vector Byte 3) :
    bigEndian raw.toList = raw[0].toNat * 65536 + raw[1].toNat * 256 + raw[2].toNat := by
  obtain ⟨⟨bytes⟩, hsize⟩ := raw
  obtain ⟨b0, b1, b2, rfl⟩ := List.length_eq_three.mp hsize
  change ((0 * 256 + b0.toNat) * 256 + b1.toNat) * 256 + b2.toNat = b0.toNat * 65536 + b1.toNat * 256 + b2.toNat
  omega

theorem bigEndian_three_lt (raw : Vector Byte 3) : bigEndian raw.toList < 2 ^ 24 := by
  rw [bigEndian_three]
  have h0 := raw[0].isLt
  have h1 := raw[1].isLt
  have h2 := raw[2].isLt
  omega

/-- A raw count is the two's complement value of its 24 bits (R180). -/
theorem adcValue_eq_signedValue (raw : Vector Byte 3) :
    adcValue raw = signedValue (raw[0].toNat * 65536 + raw[1].toNat * 256 + raw[2].toNat) 24 := by
  rw [← bigEndian_three]
  exact sextField_eq_signedValue (by decide) (bigEndian_three_lt raw)

/-- A raw count is an `int32` (R180). -/
theorem int32_adcValue_toInt (raw : Vector Byte 3) : (int32 (adcValue raw)).toInt = adcValue raw := by
  refine int32_toInt _ ?_
  rw [adcValue_eq_signedValue, ← bigEndian_three]
  exact signedValue_range (by decide) (bigEndian_three_lt raw)

/-- Every raw count has a SoftFloat, with an exponent near 0 (R115, R182). -/
theorem normalize_adcValue_bounded (raw : Vector Byte 3) :
    ∃ q, normalize (adcValue raw) 0 = .ok q ∧ q.Bounded 30 := by
  obtain ⟨q, hq, hb, -⟩ := normalize_word (int32 (adcValue raw))
  rw [int32_adcValue_toInt] at hq
  exact ⟨q, hq, hb⟩

/-! ### The polynomials answer the rule's operations (R182) -/

theorem normalize_integer_answers (r : Int) : Answers (normalize r 0) (IsTrunc31 · r) := by
  have h := normalize_truncates r 0
  rw [zpow_zero, mul_one] at h
  exact h.answers

/-- `T` is the temperature of R182 at the converted raw count `t`. -/
def IsTemperature (cs : Vector SoftFloat 9) (t T : SoftFloat) : Prop :=
  ∃ m, IsTrunc31 m (cs[1].val * t.val) ∧ IsTrunc31 T (alignedSum cs[0] m)

/-- `P` is the pressure of R182 at the converted raw counts `t` and `p`, each operation's result named where it arises. -/
def IsPressure (cs : Vector SoftFloat 9) (t p P : SoftFloat) : Prop :=
  ∃ h₁, IsTrunc31 h₁ (cs[8].val * p.val) ∧ ∃ h₂, IsTrunc31 h₂ (alignedSum cs[6] h₁) ∧
  ∃ h₃, IsTrunc31 h₃ (h₂.val * p.val) ∧ ∃ h₄, IsTrunc31 h₄ (alignedSum cs[3] h₃) ∧
  ∃ h₅, IsTrunc31 h₅ (h₄.val * p.val) ∧ ∃ h₆, IsTrunc31 h₆ (alignedSum cs[2] h₅) ∧
  ∃ m₂, IsTrunc31 m₂ (cs[4].val * t.val) ∧ ∃ h₇, IsTrunc31 h₇ (alignedSum h₆ m₂) ∧
  ∃ m₃, IsTrunc31 m₃ (cs[5].val * p.val) ∧ ∃ m₄, IsTrunc31 m₄ (m₃.val * t.val) ∧ IsTrunc31 P (alignedSum h₇ m₄)

/-- A compensation is the two conversions and the two polynomials (R182). -/
theorem isCompensation_iff {cs : Vector SoftFloat 9} {rawt rawp : Int} {T P : SoftFloat} :
    IsCompensation cs rawt rawp T P ↔
      ∃ t p, IsTrunc31 t rawt ∧ IsTrunc31 p rawp ∧ IsTemperature cs t T ∧ IsPressure cs t p P := by
  constructor
  · rintro ⟨t, p, m₁, h₁, h₂, h₃, h₄, h₅, h₆, m₂, h₇, m₃, m₄, ht, hp, hm₁, hT, hh₁, hh₂, hh₃, hh₄, hh₅, hh₆, hm₂, hh₇,
      hm₃, hm₄, hP⟩
    exact ⟨t, p, ht, hp, ⟨m₁, hm₁, hT⟩, h₁, hh₁, h₂, hh₂, h₃, hh₃, h₄, hh₄, h₅, hh₅, h₆, hh₆, m₂, hm₂, h₇, hh₇, m₃, hm₃,
      m₄, hm₄, hP⟩
  · rintro ⟨t, p, ht, hp, ⟨m₁, hm₁, hT⟩, h₁, hh₁, h₂, hh₂, h₃, hh₃, h₄, hh₄, h₅, hh₅, h₆, hh₆, m₂, hm₂, h₇, hh₇, m₃, hm₃,
      m₄, hm₄, hP⟩
    exact ⟨t, p, m₁, h₁, h₂, h₃, h₄, h₅, h₆, m₂, h₇, m₃, m₄, ht, hp, hm₁, hT, hh₁, hh₂, hh₃, hh₄, hh₅, hh₆, hm₂, hh₇,
      hm₃, hm₄, hP⟩

theorem fMul_answers (a b : SoftFloat) : Answers (fMul a b) (IsTrunc31 · (a.val * b.val)) := (fMul_truncates a b).answers

theorem fAdd_answers {a b : SoftFloat} (ha : a.Normalized) (hb : b.Normalized) :
    Answers (fAdd a b) (IsTrunc31 · (alignedSum a b)) := (fAdd_truncates ha hb).answers

section
variable {cs : Vector SoftFloat 9} (hcs : ∀ i : Fin 9, cs[i.val].Normalized)
include hcs

theorem compTemperature_answers (t : SoftFloat) : Answers (compTemperature cs t) (IsTemperature cs t) :=
  (fMul_answers cs[1] t).bind fun _ hm => fAdd_answers (hcs 0) hm.1

/-- The operations run in the order in which `IsPressure` names their results. -/
theorem compPressure_answers (t p : SoftFloat) : Answers (compPressure cs t p) (IsPressure cs t p) :=
  (fMul_answers cs[8] p).bind fun _ h₁ => (fAdd_answers (hcs 6) h₁.1).bind fun h₂ _ =>
  (fMul_answers h₂ p).bind fun _ h₃ => (fAdd_answers (hcs 3) h₃.1).bind fun h₄ _ =>
  (fMul_answers h₄ p).bind fun _ h₅ => (fAdd_answers (hcs 2) h₅.1).bind fun _ h₆ =>
  (fMul_answers cs[4] t).bind fun _ m₂ => (fAdd_answers h₆.1 m₂.1).bind fun _ h₇ =>
  (fMul_answers cs[5] p).bind fun m₃ _ => (fMul_answers m₃ t).bind fun _ m₄ => fAdd_answers h₇.1 m₄.1

/-- At counts of 0 every product is `ZERO` and every sum keeps its coefficient (R106, R182). -/
theorem isCompensation_zero : IsCompensation cs 0 0 cs[0] cs[2] := by
  have zero : IsTrunc31 SoftFloat.zero 0 := ⟨.inl rfl, fun _ => rfl, fun h => absurd rfl h⟩
  have count : IsTrunc31 SoftFloat.zero ((0 : Int) : ℚ) := Int.cast_zero (R := ℚ) ▸ zero
  have mul (a : SoftFloat) : IsTrunc31 SoftFloat.zero (a.val * SoftFloat.zero.val) := by
    rwa [SoftFloat.val_of_mant_eq_zero (a := .zero) rfl, mul_zero]
  have add (i : Fin 9) : IsTrunc31 cs[i.val] (alignedSum cs[i.val] SoftFloat.zero) := by
    rw [alignedSum_of_right_zero rfl]
    exact (hcs i).isTrunc31
  exact isCompensation_iff.mpr ⟨_, _, count, count, ⟨_, mul _, add 0⟩, _, mul _, _, add 6, _, mul _, _, add 3, _, mul _,
    _, add 2, _, mul _, _, add 2, _, mul _, _, mul _, add 2⟩

end

/-! ### The exponents along the polynomials (R108) -/

theorem SoftFloat.Bounded.mono {a : SoftFloat} {x y : Int} (h : a.Bounded x) (hxy : x ≤ y) : a.Bounded y := by
  obtain ⟨hnorm, hlow, hhigh⟩ := h
  exact ⟨hnorm, by omega, by omega⟩

/-- A product's exponent stays within 31 of the sum of its factors' bounds (R112). -/
theorem fMul_bounded {a b : SoftFloat} {x y : Int} (ha : a.Bounded x) (hb : b.Bounded y) (h : x + y + 31 ≤ 2147483647) :
    ∃ q, fMul a b = .ok q ∧ q.Bounded (x + y + 31) := by
  obtain ⟨ha, halow, hahigh⟩ := ha
  obtain ⟨hb, hblow, hbhigh⟩ := hb
  refine normalize_bounded (n := 61) ?_ (by omega) (by omega) (by omega)
  rw [Int.natAbs_mul]
  exact (Nat.mul_lt_mul'' ha.natAbs_lt hb.natAbs_lt).trans_eq (by decide)

/-- A sum's exponent stays within 30 of the larger of its operands' bounds (R105). -/
theorem fAdd_bounded {a b : SoftFloat} {x y : Int} (ha : a.Bounded x) (hb : b.Bounded y)
    (h : max x y + 30 ≤ 2147483647) : ∃ q, fAdd a b = .ok q ∧ q.Bounded (max x y + 30) := by
  by_cases ham : a.mant = 0
  · exact ⟨b, fAdd_of_left_zero ham, hb.mono (by omega)⟩
  by_cases hbm : b.mant = 0
  · exact ⟨a, fAdd_of_right_zero ham hbm, ha.mono (by omega)⟩
  obtain ⟨ha, halow, hahigh⟩ := ha
  obtain ⟨hb, hblow, hbhigh⟩ := hb
  rcases le_or_gt b.exp.toInt a.exp.toInt with hexp | hexp
  · rw [fAdd_of_exp_le ham hbm hexp]
    exact normalize_bounded (n := 31) (natAbs_add_tdiv_lt ha.natAbs_lt hb.natAbs_lt) (by omega) (by omega) (by omega)
  · rw [fAdd_of_exp_lt ham hbm hexp, add_comm]
    exact normalize_bounded (n := 31) (natAbs_add_tdiv_lt hb.natAbs_lt ha.natAbs_lt) (by omega) (by omega) (by omega)

/-- One computation after another completes, if the second does on what the first can answer. -/
theorem exists_ok_bind {α β : Type} {m : Except Cause α} {f : α → Except Cause β} {P : α → Prop} {Q : β → Prop}
    (h : ∃ a, m = .ok a ∧ P a) (hf : ∀ a, P a → ∃ b, f a = .ok b ∧ Q b) : ∃ b, m >>= f = .ok b ∧ Q b := by
  obtain ⟨a, rfl, ha⟩ := h
  exact hf a ha

section
variable {cs : Vector SoftFloat 9} (hcs : ∀ i : Fin 9, cs[i.val].Bounded (2 ^ 29)) {t p : SoftFloat}
  (ht : t.Bounded 30) (hp : p.Bounded 30)
include hcs ht

theorem compTemperature_bounded : ∃ T, compTemperature cs t = .ok T ∧ T.Bounded (2 ^ 29 + 91) :=
  exists_ok_bind (fMul_bounded (hcs 1) ht (by omega)) fun _ hm => fAdd_bounded (hcs 0) hm (by omega)

include hp

/-- The longest way through the polynomial is three products and five sums: `3 * 61 + 5 * 30` on top of `2^29`. -/
theorem compPressure_bounded : ∃ P, compPressure cs t p = .ok P ∧ P.Bounded (2 ^ 29 + 333) :=
  exists_ok_bind (fMul_bounded (hcs 8) hp (by omega)) fun _ h₁ =>
  exists_ok_bind (fAdd_bounded (hcs 6) h₁ (by omega)) fun _ h₂ =>
  exists_ok_bind (fMul_bounded h₂ hp (by omega)) fun _ h₃ =>
  exists_ok_bind (fAdd_bounded (hcs 3) h₃ (by omega)) fun _ h₄ =>
  exists_ok_bind (fMul_bounded h₄ hp (by omega)) fun _ h₅ =>
  exists_ok_bind (fAdd_bounded (hcs 2) h₅ (by omega)) fun _ h₆ =>
  exists_ok_bind (fMul_bounded (hcs 4) ht (by omega)) fun _ m₂ =>
  exists_ok_bind (fAdd_bounded h₆ m₂ (by omega)) fun _ h₇ =>
  exists_ok_bind (fMul_bounded (hcs 5) hp (by omega)) fun _ m₃ =>
  exists_ok_bind (fMul_bounded m₃ ht (by omega)) fun _ m₄ => fAdd_bounded h₇ m₄ (by omega)

end

/-! ### COMP in the order of its checks (R182) -/

/-- An uncalibrated context is found before anything is evaluated (R182). -/
theorem compensate_uncalibrated {c : Context} (h : c.calibrated = false) : compensate c = .error .notCalibrated := by
  rw [compensate, h]; rfl

section
variable {c : Context} (calibrated : c.calibrated = true)
include calibrated

/-- Past its check COMP converts the counts and evaluates the two polynomials (R182). -/
theorem compensate_calibrated : compensate c = do
    let t ← normalize (adcValue c.rawt) 0
    let p ← normalize (adcValue c.rawp) 0
    let temperature ← compTemperature c.c t
    let pressure ← compPressure c.c t p
    return { c with tcomp := temperature, pcomp := pressure, compvalid := true } := by
  rw [compensate, calibrated]; rfl

/-- COMP answers the context with a temperature and a pressure that the rule's operations give (R182). -/
theorem compensate_answers (hcs : ∀ i : Fin 9, c.c[i.val].Normalized) :
    Answers (compensate c) fun c' => ∃ T P, IsCompensation c.c (adcValue c.rawt) (adcValue c.rawp) T P ∧
      { c with tcomp := T, pcomp := P, compvalid := true } = c' := by
  rw [compensate_calibrated calibrated]
  refine ((normalize_integer_answers _).bind fun t _ => (normalize_integer_answers _).bind fun p _ =>
    (compTemperature_answers hcs t).bind fun _ _ => (compPressure_answers hcs t p).bind fun _ _ =>
    answers_ok _).congr fun c' => ⟨?_, ?_⟩
  · rintro ⟨t, ht, p, hp, T, hT, P, hP, hc⟩
    exact ⟨T, P, isCompensation_iff.mpr ⟨t, p, ht, hp, hT, hP⟩, hc⟩
  · rintro ⟨T, P, h, hc⟩
    obtain ⟨t, p, ht, hp, hT, hP⟩ := isCompensation_iff.mp h
    exact ⟨t, ht, p, hp, T, hT, P, hP, hc⟩

/-- On coefficients with inner exponents COMP completes (R108, R182). -/
theorem exists_compensation (hcs : ∀ i : Fin 9, c.c[i.val].Tame) :
    ∃ T P, IsCompensation c.c (adcValue c.rawt) (adcValue c.rawp) T P := by
  have hcompletes : ∃ c', compensate c = .ok c' ∧ c'.compvalid = true := by
    rw [compensate_calibrated calibrated]
    exact exists_ok_bind (normalize_adcValue_bounded c.rawt) fun t ht =>
      exists_ok_bind (normalize_adcValue_bounded c.rawp) fun p hp =>
      exists_ok_bind (compTemperature_bounded hcs ht) fun _ _ =>
      exists_ok_bind (compPressure_bounded hcs ht hp) fun _ _ => ⟨_, rfl, rfl⟩
  obtain ⟨c', hc', -⟩ := hcompletes
  obtain ⟨T, P, h, -⟩ := ((compensate_answers calibrated fun i => (hcs i).1).ok_iff c').mp hc'
  exact ⟨T, P, h⟩

end

end Sys2Proof.Machine
end

section
/-! The statements about the compensation evaluator (43_compensation.md). -/

namespace Sys2Proof.Machine

/-- ADCEXT writes a word that spells the channel's raw count (R181). -/
theorem exec_adcext (xd : XReg) (k : CtxId) (ch : Channel) (s : State) :
    exec (.adcext xd k ch) s =
      .next { s with x := s.x.set xd.val (int32 (adcValue ((s.readCtx k).rawBytes ch))), response := some .ok } := rfl

/-- Settles O39: the three bytes are 24 bits, whose sign extension is exact. -/
theorem adcextReadsTheRawCount : Obligations.AdcextReadsTheRawCount := by
  intro xd k s
  have hword (raw : Vector Byte 3) := (int32_adcValue_toInt raw).trans (adcValue_eq_signedValue raw)
  exact ⟨rfl, rfl, ⟨_, hword _, exec_adcext xd k .temperature s⟩, ⟨_, hword _, exec_adcext xd k .pressure s⟩⟩

/-- COMP of a calibrated context stores a temperature and a pressure that the rule's operations give (R182). -/
theorem exec_comp_of_isCompensation {k : CtxId} {s : State} (calibrated : (s.readCtx k).calibrated = true)
    (hcs : ∀ i : Fin 9, (s.readCtx k).c[i.val].Normalized) {T P : SoftFloat}
    (h : IsCompensation (s.readCtx k).c (adcValue (s.readCtx k).rawt) (adcValue (s.readCtx k).rawp) T P) :
    exec (.comp k) s = .next
      { s with
        ctx := s.ctx.set k.val { s.readCtx k with tcomp := T, pcomp := P, compvalid := true }
        response := some .ok } := by
  rw [exec, execComp, (compensate_answers calibrated hcs).eq_ok ⟨T, P, h, rfl⟩]; rfl

/-- Settles O40: the calibration is checked first, and the rule's operations decide the rest. -/
theorem compEvaluatesThePolynomials : Obligations.CompEvaluatesThePolynomials := by
  refine ⟨fun _ => rfl, fun k s calibrated places => ?_, fun k s uncalibrated => ?_⟩
  · obtain ⟨-, -, -, -, hcs⟩ := places
    refine ⟨fun T P h => exec_comp_of_isCompensation calibrated hcs h, fun hnone => ?_, fun hinner => ?_,
      fun hrawt hrawp => exec_comp_of_isCompensation calibrated hcs ?_⟩
    · rw [exec, execComp, (compensate_answers calibrated hcs).eq_error fun ⟨_, T, P, h, _⟩ => hnone ⟨T, P, h⟩]; rfl
    · obtain ⟨T, P, h⟩ := exists_compensation calibrated fun i => ⟨hcs i, hinner i⟩
      exact ⟨T, P, h, exec_comp_of_isCompensation calibrated hcs h⟩
    · have hcount : adcValue (Vector.replicate 3 0) = 0 := by decide
      rw [hrawt, hrawp, hcount]
      exact isCompensation_zero hcs
  · rw [exec, execComp, compensate_uncalibrated uncalibrated]; rfl

end Sys2Proof.Machine
end

section
/-! The dual filter pipeline (44_pipeline.md): what a filter read rebuilds, the difference of two of them, and the first
sample as a primed pipeline holds it (R191 to R201). -/

namespace Sys2Proof.Machine

/-! ### Commands that store a computed SoftFloat -/

section
variable {s u : State} {i : Instr} {fd : FReg} {m : Except Cause SoftFloat} {P : SoftFloat → Prop}

theorem Answers.finish_ok (h : Answers m P) {q : SoftFloat} (hq : P q) :
    s.finish i (m.map (s.writeF fd)) = .next { s with f := s.f.set fd.val q, response := some .ok } := by
  rw [h.eq_ok hq]; rfl

theorem Answers.finish_error (h : Answers m P) (hnone : ¬∃ q, P q) :
    s.finish i (m.map (s.writeF fd)) = .next (s.raise .exponentRange (encode i)) := by
  rw [h.eq_error hnone]; rfl

/-- One computation stored by two commands gives one result and one response, fault or not. -/
theorem finish_map_writeF_congr {j : Instr} {t v : State} (hf : u.f = s.f)
    (ht : u.finish i (m.map (u.writeF fd)) = .next t) (hv : s.finish j (m.map (s.writeF fd)) = .next v) :
    t.f = v.f ∧ t.response = v.response := by
  cases m
  case ok | error =>
    cases ht
    cases hv
    simp [hf]

end

/-! ### The value of a filter (R195) -/

/-- `q` is the SoftFloat that a filter at the scale `2^fexp` stands for, without loss (R195). -/
def IsPipeValue (u : Fir) (fexp : Word) (q : SoftFloat) : Prop :=
  q.Normalized ∧ q.val = (u.avg.toInt : ℚ) * 2 ^ fexp.toInt

theorem pipeValue_answers (u : Fir) (fexp : Word) : Answers (pipeValue u fexp) (IsPipeValue u fexp) :=
  (normalize_truncates _ _).answers.congr (isTrunc31_word_iff u.avg fexp.toInt)

/-- An average of 31 bits has room for one exponent more than the one of 32 bits, `-2^31` (R195). -/
theorem exists_isPipeValue {u : Fir} {fexp : Word} (low : -2147483618 ≤ fexp.toInt)
    (high : fexp.toInt ≤ 2147483646 ∨ u.avg.toInt ≠ -2147483648) : ∃ q, IsPipeValue u fexp q := by
  have havg := word_toInt_range u.avg
  have hfexp := word_toInt_range fexp
  have hcompletes : ∃ q, pipeValue u fexp = .ok q := by
    rcases high with hexp | hmin
    · exact normalize_completes (k := 31) (by omega) low (by omega)
    · exact normalize_completes (k := 30) (by omega) low (by omega)
  obtain ⟨q, hq⟩ := hcompletes
  exact ⟨q, ((pipeValue_answers u fexp).ok_iff q).mp hq⟩

/-- A pipeline exponent inside `2^29` gives a SoftFloat whose exponent is near it (R108, R195). -/
theorem pipeValue_bounded (u : Fir) {fexp : Word} (h : -(2 ^ 29) ≤ fexp.toInt ∧ fexp.toInt ≤ 2 ^ 29) :
    ∃ q, pipeValue u fexp = .ok q ∧ q.Bounded (2 ^ 29 + 30) := by
  have havg := word_toInt_range u.avg
  exact normalize_bounded (n := 31) (by omega) (by omega) (by omega) (by omega)

/-- Two filters of one value are rebuilt as one SoftFloat. -/
theorem IsPipeValue.unique {u w : Fir} {fexp gexp : Word} {a b : SoftFloat} (ha : IsPipeValue u fexp a)
    (hb : IsPipeValue w gexp b)
    (h : (u.avg.toInt : ℚ) * 2 ^ fexp.toInt = (w.avg.toInt : ℚ) * 2 ^ gexp.toInt) : a = b := by
  obtain ⟨hanorm, haval⟩ := ha
  obtain ⟨hbnorm, hbval⟩ := hb
  have hval : a.val = b.val := by rw [haval, hbval, h]
  exact hanorm.isTrunc31.unique (hval ▸ hbnorm.isTrunc31)

/-! ### PSHAL and PDEEP (R196, R197) -/

/-- The command that reads the filter a selector names: PSHAL or PDEEP. -/
def filterRead (fd : FReg) (k : CtxId) : FilterSel → Instr
  | .shallow => .pshal fd k
  | .deep => .pdeep fd k

section
variable {s : State} {k : CtxId}

theorem exec_filterRead_unprimed (unprimed : (s.readCtx k).primed = false) (fd : FReg) (sel : FilterSel) :
    exec (filterRead fd k sel) s = .next (s.raise .notPrimed (encode (filterRead fd k sel))) := by
  cases sel
  case shallow => rw [filterRead, exec, execPshal, unprimed]; rfl
  case deep => rw [filterRead, exec, execPdeep, unprimed]; rfl

variable (primed : (s.readCtx k).primed = true)
include primed

/-- Past the check, both commands store the value of their filter (R195). -/
theorem exec_filterRead_primed (fd : FReg) (sel : FilterSel) :
    exec (filterRead fd k sel) s = s.finish (filterRead fd k sel)
      ((pipeValue ((s.readCtx k).filter sel) (s.readCtx k).fexp).map (s.writeF fd)) := by
  cases sel
  case shallow =>
    rw [filterRead, exec, execPshal, primed, Context.filter]
    cases pipeValue (s.readCtx k).shal (s.readCtx k).fexp <;> rfl
  case deep =>
    rw [filterRead, exec, execPdeep, primed, Context.filter]
    cases pipeValue (s.readCtx k).deep (s.readCtx k).fexp <;> rfl

theorem exec_filterRead_ok (fd : FReg) (sel : FilterSel) {q : SoftFloat}
    (hq : IsPipeValue ((s.readCtx k).filter sel) (s.readCtx k).fexp q) :
    exec (filterRead fd k sel) s = .next { s with f := s.f.set fd.val q, response := some .ok } := by
  rw [exec_filterRead_primed primed, (pipeValue_answers _ _).finish_ok hq]

theorem exec_filterRead_error (fd : FReg) (sel : FilterSel)
    (hnone : ¬∃ q, IsPipeValue ((s.readCtx k).filter sel) (s.readCtx k).fexp q) :
    exec (filterRead fd k sel) s = .next (s.raise .exponentRange (encode (filterRead fd k sel))) := by
  rw [exec_filterRead_primed primed, (pipeValue_answers _ _).finish_error hnone]

theorem exec_filterRead_completes (fd : FReg) (sel : FilterSel) (low : -2147483618 ≤ (s.readCtx k).fexp.toInt)
    (high : (s.readCtx k).fexp.toInt ≤ 2147483646 ∨ ((s.readCtx k).filter sel).avg.toInt ≠ -2147483648) :
    ∃ q : SoftFloat, q.Normalized ∧
      q.val = (((s.readCtx k).filter sel).avg.toInt : ℚ) * 2 ^ (s.readCtx k).fexp.toInt ∧
      exec (filterRead fd k sel) s = .next { s with f := s.f.set fd.val q, response := some .ok } := by
  obtain ⟨q, hnorm, hval⟩ := exists_isPipeValue low high
  exact ⟨q, hnorm, hval, exec_filterRead_ok primed fd sel ⟨hnorm, hval⟩⟩

/-! ### PSNAP (R198) -/

theorem exec_psnap_primed {xd : XReg} (h : xd.val + 1 < 8) (sel : FilterSel) :
    exec (.psnap xd k sel) s = .next (((s.writeX xd ((s.readCtx k).filter sel).avg).writeX ⟨xd.val + 1, h⟩
      (s.readCtx k).fexp).respond .ok) := by
  rw [exec, execPsnap, dif_pos h, primed]; rfl

/-- FFROM of the pair computes what the filter read computes, from the same average and exponent (R198). -/
theorem ffrom_psnap_eq_filterRead {xd : XReg} (h : xd.val + 1 < 8) (sel : FilterSel) {fd : FReg} {u t v : State}
    (hu : exec (.psnap xd k sel) s = .next u) (ht : exec (.ffrom fd xd ⟨xd.val + 1, h⟩) u = .next t)
    (hv : exec (filterRead fd k sel) s = .next v) : t.f = v.f ∧ t.response = v.response := by
  rw [exec_psnap_primed primed h sel] at hu
  cases hu
  have hne : (⟨xd.val + 1, h⟩ : XReg) ≠ xd := by simp [Fin.ext_iff]
  rw [exec_filterRead_primed primed] at hv
  rw [exec, execFfrom] at ht
  simp only [State.readX_respond, State.readX_writeX_same, State.readX_writeX_other _ _ _ _ hne] at ht
  exact finish_map_writeF_congr (by simp) ht hv

end

theorem exec_psnap_pair {xd : XReg} (h : xd.val = 7) (k : CtxId) (sel : FilterSel) (s : State) :
    exec (.psnap xd k sel) s = .next (s.raise .illegalCommand (encode (.psnap xd k sel))) := by
  rw [exec, execPsnap, dif_neg (by omega)]; rfl

theorem exec_psnap_unprimed {xd : XReg} (h : xd.val < 7) {k : CtxId} (sel : FilterSel) {s : State}
    (unprimed : (s.readCtx k).primed = false) :
    exec (.psnap xd k sel) s = .next (s.raise .notPrimed (encode (.psnap xd k sel))) := by
  rw [exec, execPsnap, dif_pos (by omega), unprimed]; rfl

/-! ### The difference of two deep values (R199) -/

theorem fSub_answers {a b : SoftFloat} (ha : a.Normalized) (hb : b.Normalized) :
    Answers (fSub a b) (IsTrunc31 · (alignedSum a b.neg)) :=
  fSub_eq_fAdd_neg hb ▸ fAdd_answers ha hb.neg

/-- A difference's exponent stays within 30 of the larger of its operands' bounds (R111). -/
theorem fSub_bounded {a b : SoftFloat} {x y : Int} (ha : a.Bounded x) (hb : b.Bounded y)
    (h : max x y + 30 ≤ 2147483647) : ∃ q, fSub a b = .ok q ∧ q.Bounded (max x y + 30) := by
  obtain ⟨hnorm, hexp⟩ := hb
  rw [fSub_eq_fAdd_neg hnorm]
  exact fAdd_bounded ha ⟨hnorm.neg, hexp⟩ h

theorem pressureDifference_unprimed {total static : Context} (h : total.primed = false ∨ static.primed = false) :
    pressureDifference total static = .error .notPrimed := by
  rw [pressureDifference, Bool.and_eq_false_iff.mpr h]; rfl

/-- Equal deep values cancel, whatever their scales (R106, R202). -/
theorem IsPressureDifference.eq_zero {q : SoftFloat} {total static : Context} (h : IsPressureDifference q total static)
    (heq : (total.deep.avg.toInt : ℚ) * 2 ^ total.fexp.toInt = (static.deep.avg.toInt : ℚ) * 2 ^ static.fexp.toInt) :
    q = SoftFloat.zero := by
  obtain ⟨a, b, ha, hb, haval, hbval, hnorm, hzero, -⟩ := h
  obtain rfl : a = b := IsPipeValue.unique ⟨ha, haval⟩ ⟨hb, hbval⟩ heq
  exact hzero (alignedSum_neg ha)

section
variable {total static : Context} (htotal : total.primed = true) (hstatic : static.primed = true)
include htotal hstatic

/-- Past its check ADIFF rebuilds both deep values and subtracts (R199). -/
theorem pressureDifference_primed : pressureDifference total static = (do
    let t ← pipeValue total.deep total.fexp
    let p ← pipeValue static.deep static.fexp
    fSub t p) := by
  rw [pressureDifference, htotal, hstatic]; rfl

theorem pressureDifference_answers :
    Answers (pressureDifference total static) (IsPressureDifference · total static) := by
  rw [pressureDifference_primed htotal hstatic]
  refine ((pipeValue_answers _ _).bind fun _ ha => (pipeValue_answers _ _).bind fun _ hb =>
    fSub_answers ha.1 hb.1).congr fun q => ⟨?_, ?_⟩
  · rintro ⟨a, ⟨ha, haval⟩, b, ⟨hb, hbval⟩, hq⟩
    exact ⟨a, b, ha, hb, haval, hbval, hq⟩
  · rintro ⟨a, b, ha, hb, haval, hbval, hq⟩
    exact ⟨a, ⟨ha, haval⟩, b, ⟨hb, hbval⟩, hq⟩

/-- With pipeline exponents inside `2^29` ADIFF completes (R108, R199). -/
theorem exists_isPressureDifference (htexp : -(2 ^ 29) ≤ total.fexp.toInt ∧ total.fexp.toInt ≤ 2 ^ 29)
    (hsexp : -(2 ^ 29) ≤ static.fexp.toInt ∧ static.fexp.toInt ≤ 2 ^ 29) :
    ∃ q, IsPressureDifference q total static := by
  have hcompletes : ∃ q, pressureDifference total static = .ok q ∧ q.Bounded (2 ^ 29 + 60) := by
    rw [pressureDifference_primed htotal hstatic]
    exact exists_ok_bind (pipeValue_bounded _ htexp) fun _ ha =>
      exists_ok_bind (pipeValue_bounded _ hsexp) fun _ hb => fSub_bounded ha hb (by omega)
  obtain ⟨q, hq, -⟩ := hcompletes
  exact ⟨q, ((pressureDifference_answers htotal hstatic).ok_iff q).mp hq⟩

end

/-! ### The first sample (R201) -/

/-- A SoftFloat with the low `h` bits of its magnitude cleared: what a pipeline primed with head room `h` keeps of it
(R192, R201). -/
def SoftFloat.clearLow (a : SoftFloat) (h : Nat) : SoftFloat :=
  { mant := int32 (a.mant.toInt.tdiv (2 ^ h) * 2 ^ h), exp := a.exp }

@[simp] theorem SoftFloat.clearLow_exp (a : SoftFloat) (h : Nat) : (a.clearLow h).exp = a.exp := rfl

@[simp] theorem SoftFloat.clearLow_zero (a : SoftFloat) : a.clearLow 0 = a := by
  simp [SoftFloat.clearLow]

theorem natAbs_tdiv_mul_two_pow (v : Int) (h : Nat) :
    (v.tdiv (2 ^ h) * 2 ^ h).natAbs = v.natAbs / 2 ^ h * 2 ^ h := by
  rw [Int.natAbs_mul, Int.natAbs_tdiv, Int.natAbs_pow]; rfl

section
variable {a : SoftFloat} (ha : a.Normalized)
include ha

/-- Clearing bits makes no magnitude larger, so the mantissa is stored exactly. -/
theorem SoftFloat.Normalized.clearLow_mant (h : Nat) :
    (a.clearLow h).mant.toInt = a.mant.toInt.tdiv (2 ^ h) * 2 ^ h := by
  have hlt := ha.natAbs_lt
  have habs := natAbs_tdiv_mul_two_pow a.mant.toInt h
  have hle := Nat.div_mul_le_self a.mant.toInt.natAbs (2 ^ h)
  exact int32_toInt _ (by omega)

/-- Below bit 30 the top bit stays (R21). -/
theorem SoftFloat.Normalized.clearLow {h : Nat} (hh : h ≤ 30) : (a.clearLow h).Normalized := by
  rcases ha with rfl | ⟨htop, hbits⟩
  · exact .inl (by simp [SoftFloat.clearLow, SoftFloat.zero, int32])
  · right
    rw [SoftFloat.Normalized.clearLow_mant (.inr ⟨htop, hbits⟩), natAbs_tdiv_mul_two_pow]
    refine ⟨?_, (Nat.div_mul_le_self _ _).trans hbits⟩
    calc 2 ^ 30 = 2 ^ 30 / 2 ^ h * 2 ^ h := (Nat.div_mul_cancel (Nat.pow_dvd_pow 2 hh)).symm
      _ ≤ a.mant.toInt.natAbs / 2 ^ h * 2 ^ h := Nat.mul_le_mul_right _ (Nat.div_le_div_right htop)

/-- The shifted mantissa at the scale raised by the head room is the value with the low bits cleared (R192, R201). -/
theorem SoftFloat.Normalized.clearLow_val (h : Nat) :
    (a.clearLow h).val = (a.mant.toInt.tdiv (2 ^ h) : ℚ) * 2 ^ (a.exp.toInt + h) := by
  rw [SoftFloat.val, ha.clearLow_mant, SoftFloat.clearLow_exp, zpow_add₀ two_ne_zero, zpow_natCast]
  push_cast
  ring

end

theorem fhead_eq (fcfg : Word) : fhead fcfg = fcfg.toNat / 65536 % 16 := rfl

theorem fhead_lt (fcfg : Word) : fhead fcfg < 16 := Nat.mod_lt _ (by decide)

/-- What a priming PFEED leaves of its sample: the exponent raised by the head room, and both averages the shifted
mantissa (R192). -/
theorem prime_sample {c c' : Context} (h : prime c = .ok c') :
    c'.primed = true ∧ c.pcomp.exp.toInt + (fhead c.fcfg : Int) ≤ 2147483647 ∧
      c'.fexp = int32 (c.pcomp.exp.toInt + (fhead c.fcfg : Int)) ∧
      ∀ sel, (c'.filter sel).avg = int32 (shrTz c.pcomp.mant.toInt (fhead c.fcfg)) := by
  obtain ⟨_, -, h⟩ := (except_bind_eq_ok_iff _ _ _).mp h
  obtain ⟨_, -, h⟩ := (except_bind_eq_ok_iff _ _ _).mp h
  obtain ⟨hexp, h⟩ := (require_bind_eq_ok_iff _ _ _ _).mp h
  cases h
  exact ⟨rfl, of_decide_eq_true hexp, rfl, fun sel => by cases sel <;> rfl⟩

/-- Either filter of a pipeline just primed stands for the sample with the low `FHEAD` bits cleared (R195, R201). -/
theorem prime_isPipeValue {c c' : Context} (h : prime c = .ok c') (hnorm : c.pcomp.Normalized) (sel : FilterSel) :
    IsPipeValue (c'.filter sel) c'.fexp (c.pcomp.clearLow (fhead c.fcfg)) := by
  obtain ⟨-, hmax, hfexp, havg⟩ := prime_sample h
  have hexp := word_toInt_range c.pcomp.exp
  have hhead := fhead_lt c.fcfg
  have hshift : (c.pcomp.mant.toInt.tdiv (2 ^ fhead c.fcfg)).natAbs ≤ c.pcomp.mant.toInt.natAbs :=
    Int.natAbs_tdiv .. ▸ Nat.div_le_self _ _
  have hlt := hnorm.natAbs_lt
  refine ⟨hnorm.clearLow (by omega), ?_⟩
  rw [hnorm.clearLow_val, havg, hfexp, int32_toInt _ ⟨by omega, hmax⟩, shrTz_eq_tdiv, pow2_eq, int32_toInt _ (by omega)]

/-- PFEED that answers `ok` on an unprimed context has primed it (R192). -/
theorem exec_pfeed_primes {k : CtxId} {s u : State} (valid : (s.readCtx k).compvalid = true)
    (unprimed : (s.readCtx k).primed = false) (h : exec (.pfeed k) s = .next u) (hok : u.response = some .ok) :
    ∃ c, prime (s.readCtx k) = .ok c ∧ u = (s.writeCtx k c).respond .ok := by
  have hfeed : feed (s.readCtx k) = prime (s.readCtx k) := by rw [feed, valid, unprimed]; rfl
  rw [exec, execPfeed, State.finish_next_iff, hfeed] at h
  obtain ⟨t, ht, rfl⟩ | ⟨cause, -, rfl⟩ := h
  · obtain ⟨c, hc, rfl⟩ := (except_map_eq_ok_iff _ _ _).mp ht
    exact ⟨c, hc, rfl⟩
  · simp at hok

end Sys2Proof.Machine
end

section
/-! The statements about the dual filter pipeline (44_pipeline.md). -/

namespace Sys2Proof.Machine

/-- Settles O44: an average is an `int32`, so its value at the scale loses nothing where it has a SoftFloat. -/
theorem filterReadsAreExact : Obligations.FilterReadsAreExact := by
  intro fd k s
  refine ⟨rfl, rfl, fun primed => ⟨fun q hnorm => ⟨fun hval => ?_, fun hval => ?_⟩, ?_, ?_, fun low => ⟨?_, ?_⟩⟩,
    fun unprimed => ⟨?_, ?_⟩⟩
  · exact exec_filterRead_ok primed fd .shallow ⟨hnorm, hval⟩
  · exact exec_filterRead_ok primed fd .deep ⟨hnorm, hval⟩
  · exact exec_filterRead_error primed fd .shallow
  · exact exec_filterRead_error primed fd .deep
  · exact exec_filterRead_completes primed fd .shallow low
  · exact exec_filterRead_completes primed fd .deep low
  · exact exec_filterRead_unprimed unprimed fd .shallow
  · exact exec_filterRead_unprimed unprimed fd .deep

/-- Settles O45: FFROM reads from the pair the two numbers that the filter read takes from the context. -/
theorem psnapCopiesThePair : Obligations.PsnapCopiesThePair := by
  refine ⟨fun _ _ => ⟨rfl, rfl⟩, fun xd k s h primed => ⟨?_, ?_, fun fd u t v => ⟨?_, ?_⟩⟩,
    fun xd k sel s => ⟨fun hxd => ?_, fun hxd unprimed => ?_⟩⟩
  · exact exec_psnap_primed primed h .shallow
  · exact exec_psnap_primed primed h .deep
  · exact ffrom_psnap_eq_filterRead primed h .deep
  · exact ffrom_psnap_eq_filterRead primed h .shallow
  · exact exec_psnap_pair hxd k sel s
  · exact exec_psnap_unprimed hxd sel unprimed

/-- Settles O46: the check comes first, then two exact values and one truncated subtraction. -/
theorem adiffSubtractsTheDeepValues : Obligations.AdiffSubtractsTheDeepValues := by
  refine fun fd kt ks s => ⟨rfl, fun htotal hstatic => ?_, fun hunprimed => ?_⟩
  · have hdiff := pressureDifference_answers htotal hstatic
    refine ⟨fun q => hdiff.finish_ok, hdiff.finish_error, fun htexp hsexp => ?_⟩
    obtain ⟨q, hq⟩ := exists_isPressureDifference htotal hstatic htexp hsexp
    exact ⟨q, hq, fun hsame => hq.eq_zero (by rw [hsame]), hdiff.finish_ok hq⟩
  · rw [exec, execAdiff, pressureDifference_unprimed hunprimed]; rfl

/-- Settles O49: both averages hold the shifted mantissa, and the head room in the scale puts it back in place. -/
theorem firstSampleIsReturnedExactly : Obligations.FirstSampleIsReturnedExactly := by
  intro fd k s u hinv valid unprimed hfeed hok
  obtain ⟨⟨-, -, -, hnorm, -⟩, -⟩ := hinv
  obtain ⟨c, hprime, rfl⟩ := exec_pfeed_primes valid unprimed hfeed hok
  have hread : ((s.writeCtx k c).respond .ok).readCtx k = c := by simp
  have hprimed : (((s.writeCtx k c).respond .ok).readCtx k).primed = true := by
    rw [hread]; exact (prime_sample hprime).1
  have hvalue (sel : FilterSel) := hread.symm ▸ prime_isPipeValue hprime hnorm sel
  refine ⟨(s.readCtx k).pcomp.clearLow (fhead (s.readCtx k).fcfg), rfl, hnorm.clearLow_mant _, fun hzero => ?_, ?_, ?_⟩
  · rw [fhead_eq, hzero, SoftFloat.clearLow_zero]
  · exact exec_filterRead_ok hprimed fd .shallow (hvalue .shallow)
  · exact exec_filterRead_ok hprimed fd .deep (hvalue .deep)

/-- Settles O48: PRESET writes the reset values unconditionally. -/
theorem presetResetsThePipeline : Obligations.PresetResetsThePipeline := by
  intro k s
  exact ⟨rfl, rfl⟩

end Sys2Proof.Machine
end

section
/-! What decoding to a command says of the word's fields (R74 to R76), the commands that are one word, and the word of a
16-bit immediate. -/

namespace Sys2Proof

/-- The map names a command under its own opcode only (R74). -/
theorem opcodeRow_op {q : Fields} {fmt : Format} {i : Instr} (h : opcodeRow q = some (fmt, some i)) :
    i.fields.op = q.op := by
  unfold opcodeRow at h
  split at h
  case h_37 => cases h
  -- In each of the 36 rows the command is the row's constructor, applied to operands read from the other fields.
  all_goals
    simp only [Option.some.injEq, Prod.mk.injEq, Option.bind_eq_bind, Option.bind_eq_some_iff, Option.pure_def]
      at h
    grind [Instr.fields]

/-- A decoded word passes a row of the map that names the command, with the unused fields zero (R71, R76). -/
theorem opcodeRow_of_decode {w : Word} {i : Instr} (h : decode w = .ok i) :
    ∃ fmt, opcodeRow (fieldsOf w) = some (fmt, some i) ∧ fmt.unusedZero (fieldsOf w) = true := by
  unfold decode at h
  split at h
  · cases h
  · next fmt named hrow =>
    split at h
    · next hunused =>
      split at h
      · cases h
      · split at h
        · cases h; exact ⟨fmt, hrow, hunused⟩
        · cases h
    · cases h

/-- A command without operands, alone under its opcode, has one word: its encoding (R71, R74). -/
theorem decode_eq_ok_iff_of_bare {i : Instr} (hfields : i.fields = ⟨i.fields.op, 0, 0, 0, 0⟩)
    (hencoded : fieldsOf (encode i) = i.fields) (hwf : i.wellFormed = true)
    (hrow : ∀ q : Fields, q.op = i.fields.op → opcodeRow q = some (.z, some i)) (w : Word) :
    decode w = .ok i ↔ w = encode i := by
  constructor
  · intro h
    obtain ⟨fmt, hnamed, hunused⟩ := opcodeRow_of_decode h
    have hop := (opcodeRow_op hnamed).symm
    obtain rfl : Format.z = fmt := by simpa using (hrow _ hop).symm.trans hnamed
    simp only [Format.unusedZero, Bool.and_eq_true, beq_iff_eq] at hunused
    obtain ⟨⟨⟨hd, ha⟩, hb⟩, himm⟩ := hunused
    have hsame : fieldsOf w = i.fields := by
      rw [hfields, ← hop]
      exact (Fields.mk.injEq ..).mpr ⟨rfl, hd, ha, hb, himm⟩
    rw [encode, ← hsame, wordOf_fieldsOf]
  · rintro rfl
    exact decode_ok (hrow _ (by rw [hencoded])) (by rw [hencoded, hfields]; rfl) hwf

/-- The map names NOP, whatever the other fields, under opcode 0x00 (R74). -/
theorem opcodeRow_nop (q : Fields) (h : q.op = 0x00) : opcodeRow q = some (.z, some .nop) := by
  simp only [opcodeRow, h]

theorem opcodeRow_fclr (q : Fields) (h : q.op = 0x01) : opcodeRow q = some (.z, some .fclr) := by
  simp only [opcodeRow, h]

theorem decode_eq_nop_iff (w : Word) : decode w = .ok .nop ↔ w = 0 :=
  decode_eq_ok_iff_of_bare rfl Laws.EncodedFields.nop rfl opcodeRow_nop w

theorem decode_eq_fclr_iff (w : Word) : decode w = .ok .fclr ↔ w = 0x01000000#32 :=
  decode_eq_ok_iff_of_bare rfl Laws.EncodedFields.fclr rfl opcodeRow_fclr w

/-- A 16-bit immediate split over the fields `b` and `imm12` stands whole in bits 15:0 (R70, R71). -/
theorem wordOf_immediate (op d imm : Nat) :
    wordOf ⟨op, d, 0, imm / 2 ^ 12, imm % 2 ^ 12⟩ = Machine.commandWord op d 0 0 imm := by
  apply BitVec.eq_of_toNat_eq
  simp only [wordOf, Machine.commandWord, BitVec.toNat_ofNat]
  omega

end Sys2Proof
end

section
/-! The system commands (45_system.md): the halves of a word, and the byte registers of a context. -/

namespace Sys2Proof.Machine

/-! ### The halves of a word (R212, R213) -/

/-- What XLIH writes is the immediate over the lower half of the old word (R213). -/
theorem upperHalf_eq_append (hi : BitVec 16) (v : Word) :
    BitVec.ofNat 32 (hi.toNat * 65536 + v.toNat % 65536) = hi ++ v.extractLsb' 0 16 := by
  apply BitVec.eq_of_toNat_eq
  have hhi := hi.isLt
  have hlow : (v.extractLsb' 0 16).toNat = v.toNat % 65536 := by simp
  rw [BitVec.toNat_append, hlow, ← Nat.shiftLeft_add_eq_or_of_lt (by omega), Nat.shiftLeft_eq, BitVec.toNat_ofNat]
  omega

theorem append_halves (v : Word) : v.extractLsb' 16 16 ++ v.extractLsb' 0 16 = v :=
  (BitVec.extractLsb'_append_extractLsb'_eq_extractLsb' (start₁ := 0) rfl).trans BitVec.extractLsb'_eq_self

/-- Sign extension keeps the bits of the immediate (R212). -/
theorem lowerHalf_sext16 (imm : BitVec 16) : (sext16 imm).extractLsb' 0 16 = imm := by
  apply BitVec.eq_of_getLsbD_eq
  intro i hi
  have hlt : i < 32 := by omega
  rw [BitVec.getLsbD_extractLsb', sext16, BitVec.getLsbD_signExtend]
  simp [hi, hlt]

/-- XLIH writes the immediate over the lower half of its register (R213). -/
theorem exec_xlih (xd : XReg) (imm : BitVec 16) (s : State) :
    exec (.xlih xd imm) s =
      .next { s with x := s.x.set xd.val (imm ++ (s.readX xd).extractLsb' 0 16), response := some .ok } := by
  rw [← upperHalf_eq_append]; rfl

/-- XLIH after XLI of the halves of a pattern leaves the pattern (R79, R212, R213). -/
theorem exec_xlih_after_xli (xd : XReg) (v : Word) (s : State) :
    exec (.xlih xd (v.extractLsb' 16 16)) ((s.writeX xd (sext16 (v.extractLsb' 0 16))).respond .ok) =
      .next { s with x := s.x.set xd.val v, response := some .ok } := by
  rw [exec_xlih, State.readX_respond, State.readX_writeX_same, lowerHalf_sext16, append_halves, State.respond_x,
    State.writeX_x, Vector.set_set]
  rfl

/-! ### The byte registers of a context (R53, R214) -/

/-- `reg` is the port register of the byte that index `idx` names in context `k`: a write of it stores the byte there,
and a read shows the byte (R214). -/
structure ShowsByte (k : CtxId) (idx : Nat) (reg : PortReg) : Prop where
  store : ∀ (s : State) (v : Word),
    s.storeReg reg v = s.writeCtx k ((s.readCtx k).storeByte idx (lowByte v))
  value : ∀ (s : State) (b : Byte),
    (s.writeCtx k ((s.readCtx k).storeByte idx b)).regValue reg = zextByte b

theorem Context.storeByte_coef (c : Context) (i : Fin 18) (b : Byte) :
    c.storeByte i.val b = { c with coef := c.coef.set i.val b } := dif_pos i.isLt

theorem Context.storeByte_rawt (c : Context) (i : Fin 3) (b : Byte) :
    c.storeByte (18 + i.val) b = { c with rawt := c.rawt.set i.val b } := by
  simp [Context.storeByte]

theorem Context.storeByte_rawp (c : Context) (i : Fin 3) (b : Byte) :
    c.storeByte (21 + i.val) b = { c with rawp := c.rawp.set i.val b } := by
  have hcoef : ¬21 + i.val < 18 := by omega
  have hrawt : ¬21 + i.val - 18 < 3 := by omega
  simp [Context.storeByte, hcoef, hrawt]

theorem showsByte_coef (k : CtxId) (i : Fin 18) : ShowsByte k i.val (.coef k i) where
  store s v := by rw [Context.storeByte_coef]; rfl
  value s b := by simp [Context.storeByte_coef, State.regValue]

theorem showsByte_rawt (k : CtxId) (i : Fin 3) : ShowsByte k (18 + i.val) (.rawt k i) where
  store s v := by rw [Context.storeByte_rawt]; rfl
  value s b := by simp [Context.storeByte_rawt, State.regValue]

theorem showsByte_rawp (k : CtxId) (i : Fin 3) : ShowsByte k (21 + i.val) (.rawp k i) where
  store s v := by rw [Context.storeByte_rawp]; rfl
  value s b := by simp [Context.storeByte_rawp, State.regValue]

theorem portMap_coef (k : CtxId) (i : Fin 18) : portMap (ctxBase k + 0x10 + i.val) = some (.coef k i) := by
  revert k i; decide

theorem portMap_rawt (k : CtxId) (i : Fin 3) : portMap (ctxBase k + 0x24 + i.val) = some (.rawt k i) := by
  revert k i; decide

theorem portMap_rawp (k : CtxId) (i : Fin 3) : portMap (ctxBase k + 0x28 + i.val) = some (.rawp k i) := by
  revert k i; decide

/-- A legal index of LDB names the byte whose register stands at R53's number for it (R214). -/
theorem exists_byteReg (k : CtxId) {idx r : Nat}
    (h : idx ≤ 17 ∧ r = 0x110 + 0x100 * k.val + idx ∨
      18 ≤ idx ∧ idx ≤ 20 ∧ r = 0x124 + 0x100 * k.val + (idx - 18) ∨
      21 ≤ idx ∧ idx ≤ 23 ∧ r = 0x128 + 0x100 * k.val + (idx - 21)) :
    ∃ reg, portMap r = some reg ∧ ShowsByte k idx reg := by
  have base (o : Nat) : 0x100 + o + 0x100 * k.val = ctxBase k + o := by rw [ctxBase]; omega
  rcases h with ⟨hhigh, rfl⟩ | ⟨hlow, hhigh, rfl⟩ | ⟨hlow, hhigh, rfl⟩
  · rw [base 0x10]
    exact ⟨_, portMap_coef k ⟨idx, by omega⟩, showsByte_coef k ⟨idx, by omega⟩⟩
  · obtain ⟨i, rfl⟩ := Nat.exists_eq_add_of_le hlow
    rw [base 0x24, Nat.add_sub_cancel_left]
    exact ⟨_, portMap_rawt k ⟨i, by omega⟩, showsByte_rawt k ⟨i, by omega⟩⟩
  · obtain ⟨i, rfl⟩ := Nat.exists_eq_add_of_le hlow
    rw [base 0x28, Nat.add_sub_cancel_left]
    exact ⟨_, portMap_rawp k ⟨i, by omega⟩, showsByte_rawp k ⟨i, by omega⟩⟩

@[simp] theorem lowByte_zextByte (b : Byte) : lowByte (zextByte b) = b := by
  simp [lowByte, zextByte]

/-- At the number of a byte's register the port writes the byte's place and then reads the byte (R52, R53). -/
theorem ShowsByte.portWrite {k : CtxId} {idx r : Nat} {reg : PortReg} (h : ShowsByte k idx reg)
    (hmap : portMap r = some reg) (s : State) (b : Byte) :
    s.portWrite r (zextByte b) = s.writeCtx k ((s.readCtx k).storeByte idx b) ∧
      (s.portWrite r (zextByte b)).portRead r = zextByte b := by
  have hwrite : s.portWrite r (zextByte b) = s.writeCtx k ((s.readCtx k).storeByte idx b) := by
    rw [State.portWrite, hmap]
    simpa using h.store s (zextByte b)
  refine ⟨hwrite, ?_⟩
  rw [hwrite, State.portRead, hmap]
  exact h.value s b

/-! ### LDB (R214) -/

theorem exec_ldb {k : CtxId} {idx : BitVec 8} (h : idx.toNat ≤ 23) (b : Byte) (s : State) :
    exec (.ldb k idx b) s = .next ((s.writeCtx k ((s.readCtx k).storeByte idx.toNat b)).respond .ok) := by
  rw [exec, execLdb, decide_eq_true h]; rfl

theorem exec_ldb_illegal {k : CtxId} {idx : BitVec 8} (h : 23 < idx.toNat) (b : Byte) (s : State) :
    exec (.ldb k idx b) s = .next (s.raise .illegalCommand (encode (.ldb k idx b))) := by
  rw [exec, execLdb, decide_eq_false h.not_ge]; rfl

end Sys2Proof.Machine
end

section
/-! The statements about the system commands (45_system.md). -/

namespace Sys2Proof.Machine

/-- Settles O15: under opcode 0x00 there is only NOP, and NOP has only one word. -/
theorem nopChangesNothing : Obligations.NopChangesNothing := by
  refine ⟨fun _ => rfl, decode_eq_nop_iff, fun w s hop hne => ?_⟩
  rcases issue_cases w s with ⟨i, hdecode, -⟩ | ⟨-, -, hraise⟩
  · obtain ⟨_, hrow, -⟩ := opcodeRow_of_decode hdecode
    cases (opcodeRow_nop _ hop).symm.trans hrow
    exact absurd ((decode_eq_nop_iff w).mp hdecode) hne
  · exact hraise

/-- Settles O16: FCLR has no operands and is alone under its opcode. -/
theorem fclrClearsTheRecord : Obligations.FclrClearsTheRecord :=
  ⟨fun _ => rfl, decode_eq_fclr_iff⟩

/-- Settles O17: XLI leaves the immediate in the lower half, which XLIH keeps under its own. -/
theorem immediatesBuildAnyWord : Obligations.ImmediatesBuildAnyWord := by
  refine ⟨fun xd imm => ⟨wordOf_immediate _ _ _, wordOf_immediate _ _ _⟩, fun xd imm s => ?_, fun xd imm s => ?_,
    fun xd v s => ?_⟩
  · exact ⟨sext16 imm, BitVec.toInt_signExtend_of_le (by decide), rfl⟩
  · exact ⟨_, BitVec.extractLsb'_append_eq_left, BitVec.extractLsb'_append_eq_right, exec_xlih xd imm s⟩
  · exact ⟨_, _, _, rfl, rfl, exec_xlih_after_xli xd v s⟩

/-- Settles O18: LDB stores at the index what the port stores at the register of the byte. -/
theorem ldbIsThePortWriteOfTheByte : Obligations.LdbIsThePortWriteOfTheByte := by
  refine fun k idx b s => ⟨wordOf_immediate _ _ _, fun r hr => ?_, fun hidx => exec_ldb_illegal hidx b s⟩
  obtain ⟨reg, hmap, hshows⟩ := exists_byteReg k hr
  obtain ⟨hwrite, hread⟩ := hshows.portWrite hmap s b
  refine ⟨?_, hread⟩
  rw [exec_ldb (by omega), ← hwrite]
  rfl

end Sys2Proof.Machine
end

section
/-! A decoded word is the encoding of its command: under every row of the map the operands keep the fields they were read
from, and the fields the format does not use are zero (R71 to R76). -/

namespace Sys2Proof

/-! ### The operand fields (R72) -/

theorem xIndex_eq_some_iff {v : Nat} {i : XReg} : xIndex v = some i ↔ i.val = v := by grind [xIndex]

theorem fIndex_eq_some_iff {v : Nat} {i : FReg} : fIndex v = some i ↔ i.val = v := by grind [fIndex]

theorem pairIndex_eq_some_iff {v : Nat} {i : Fin 2} : pairIndex v = some i ↔ i.val = v := by grind [pairIndex]

theorem channelOf_eq_some_iff {v : Nat} {c : Channel} : channelOf v = some c ↔ c.code = v := by
  constructor
  · intro h
    unfold channelOf at h
    split at h <;> cases h <;> rfl
  · rintro rfl
    exact channelOf_code c

theorem selectorOf_eq_some_iff {v : Nat} {c : FilterSel} : selectorOf v = some c ↔ c.code = v := by
  constructor
  · intro h
    unfold selectorOf at h
    split at h <;> cases h <;> rfl
  · rintro rfl
    exact selectorOf_code c

/-! ### The word (R75) -/

/-- The command a row of the map names for some fields has those fields, if the fields the row's format does not use are
zero. -/
theorem fields_of_opcodeRow {q : Fields} {fmt : Format} {i : Instr} (hq : q.InRange)
    (h : opcodeRow q = some (fmt, some i)) (hunused : fmt.unusedZero q = true) : i.fields = q := by
  obtain ⟨op, d, a, b, imm⟩ := q
  obtain ⟨-, -, -, hb, himm⟩ := hq
  unfold opcodeRow at h
  split at h
  case h_37 => cases h
  -- In each of the 36 rows `h` gives the command with one equation for each operand, `hunused` the fields left over; an
  -- immediate is whole because its fields are in range.
  all_goals
    simp only [Option.some.injEq, Prod.mk.injEq, Option.bind_eq_bind, Option.bind_eq_some_iff, Option.pure_def,
      xIndex_eq_some_iff, fIndex_eq_some_iff, pairIndex_eq_some_iff, channelOf_eq_some_iff, selectorOf_eq_some_iff] at h
    obtain ⟨rfl, h⟩ := h
    simp only [Format.unusedZero, Bool.and_eq_true, beq_iff_eq] at hunused
    grind [Instr.fields, Fields.imm16]

theorem encode_of_decode {w : Word} {i : Instr} (h : decode w = .ok i) : encode i = w := by
  obtain ⟨fmt, hrow, hunused⟩ := opcodeRow_of_decode h
  rw [encode, fields_of_opcodeRow (fieldsOf_inRange w) hrow hunused, wordOf_fieldsOf]

end Sys2Proof
end

section
/-! What an issued word can do, and a port transaction taken from the head of the host's queue. -/

namespace Sys2Proof.Machine

/-! ### The fault record (R231) -/

theorem Cause.flag_eq_shiftLeft (c : Cause) : c.flag = 1#32 <<< c.code := by cases c <;> rfl

theorem countFault_eq (e : Word) : countFault e = if e = 0xFFFFFFFF#32 then e else e + 1 := by
  apply BitVec.eq_of_toNat_eq
  rw [countFault_toNat]
  split
  case isTrue hfull => subst hfull; rfl
  case isFalse hroom => bv_omega

theorem raise_eq_record (s : State) (c : Cause) (w : Word) :
    s.raise c w = { s with
      status := s.status ||| (1#32 <<< c.code)
      fcause := BitVec.ofNat 4 c.code
      fcmd := w
      errcnt := if s.errcnt = 0xFFFFFFFF#32 then s.errcnt else s.errcnt + 1
      response := some (.fault c) } := by
  rw [State.raise, stickySet, Cause.flag_eq_shiftLeft, countFault_eq]

/-- Everything an issued word can end in: an effect of the command it encodes with the response `ok`, or the fault record
with the word itself (R231). -/
theorem issue_next_cases {w : Word} {s t : State} (h : issue w s = .next t) :
    (∃ i u, decode w = .ok i ∧ Effect s i u ∧ t = u.respond .ok) ∨ ∃ c, t = s.raise c w := by
  rcases issue_cases w s with ⟨i, hdecode, hi⟩ | ⟨e, -, hi⟩
  · obtain ⟨u, heffect, rfl⟩ | ⟨c, rfl⟩ := exec_cases (hi.symm.trans h)
    · exact .inl ⟨i, u, hdecode, heffect, rfl⟩
    · exact .inr ⟨c, by rw [encode_of_decode hdecode]⟩
  · cases hi.symm.trans h
    exact .inr ⟨.illegalCommand, rfl⟩

/-! ### The port and the host's queue (R52, R61) -/

section
variable (s : State) (r : Nat) (v : Word) (rest : List Event)

/-- The port does not see the host's queue. -/
@[simp] theorem portRead_withPending : State.portRead { s with pending := rest } r = s.portRead r := by
  unfold State.portRead
  cases portMap r with
  | none => rfl
  | some reg => cases reg <;> rfl

/-- A port write leaves the host's queue alone. -/
@[simp] theorem portWrite_withPending :
    State.portWrite { s with pending := rest } r v = { s.portWrite r v with pending := rest } := by
  unfold State.portWrite
  cases portMap r with
  | none => rfl
  | some reg => cases reg <;> rfl

theorem portRead_unmapped (h : portMap r = none) : s.portRead r = 0 := by rw [State.portRead, h]

/-- `CMD` is write-only and reads 0 (R52). -/
theorem portRead_cmd : s.portRead 0 = 0 := rfl

theorem portWrite_unmapped (h : portMap r = none) : s.portWrite r v = s := by rw [State.portWrite, h]

theorem storeReg_readOnly {reg : PortReg} (h : reg.access = .ro) : s.storeReg reg v = s := by
  cases reg
  case status | x | mcfg | fcfg | coef | rawt | rawp => cases h
  all_goals rfl

theorem portWrite_readOnly {reg : PortReg} (hmap : portMap r = some reg) (h : reg.access = .ro) :
    s.portWrite r v = s := by
  rw [State.portWrite, hmap]
  exact storeReg_readOnly s v h

end

/-- A read at the head of the queue answers what the port shows (R52). -/
theorem step_read {s : State} {r : Nat} {rest : List Event} (h : s.pending = .read r :: rest) :
    step s = .next { s with pending := rest, response := some (.value (s.portRead r)) } := by
  simp only [step, State.accept, h, portRead_withPending, State.respond]

/-- A write at the head of the queue to a register other than `CMD` is stored and answered `ok` (R52). -/
theorem step_write {s : State} {r : Nat} {v : Word} {rest : List Event} (h : s.pending = .write r v :: rest)
    (hcmd : r ≠ 0) : step s = .next { s.portWrite r v with pending := rest, response := some .ok } := by
  simp only [step, State.accept, h, portMap_eq_cmd_iff, hcmd, if_false, portWrite_withPending, State.respond]

end Sys2Proof.Machine
end

section
/-! The statements about exceptions (60_exceptions.md). -/

namespace Sys2Proof.Machine

/-- Settles O8: a command that completes answers `ok`, so a word that answers a fault leaves the record, and the word
recorded is the one issued because a legal word is the encoding of its command. -/
theorem faultsArePrecise : Obligations.FaultsArePrecise := by
  intro w s t c h hfault
  obtain ⟨i, u, -, -, rfl⟩ | ⟨c', rfl⟩ := issue_next_cases h
  · simp at hfault
  · obtain rfl : c' = c := by simpa using hfault
    exact raise_eq_record s c' w

/-- Settles O53: the port and the host's queue are independent, so a transaction taken from the queue acts as in the state
that still holds it. -/
theorem portTransactionsTakeEffectAlone : Obligations.PortTransactionsTakeEffectAlone := by
  refine fun s r v rest => ⟨step_read, step_write, ?reads, portWrite_unmapped s r v, fun _ => portWrite_readOnly s r v⟩
  case reads =>
    rintro (hunmapped | rfl)
    · exact portRead_unmapped s r hunmapped
    · exact portRead_cmd s

end Sys2Proof.Machine
end

section
/-! The encoding (30_encoding.md): every command is read back from its word, and the rows of the opcode table accept
exactly the words that decode. -/

namespace Sys2Proof

/-! ### A command read back from its word (R74, R75) -/

open Laws in
theorem fieldsOf_encode : ∀ i : Instr, fieldsOf (encode i) = i.fields
  | .nop => EncodedFields.nop
  | .fclr => EncodedFields.fclr
  | .xli .. => EncodedFields.xli ..
  | .xlih .. => EncodedFields.xlih ..
  | .ldb .. => EncodedFields.ldb ..
  | .fadd .. => EncodedFields.fadd ..
  | .fsub .. => EncodedFields.fsub ..
  | .fmul .. => EncodedFields.fmul ..
  | .fdiv .. => EncodedFields.fdiv ..
  | .fmuli .. => EncodedFields.fmuli ..
  | .ffrom .. => EncodedFields.ffrom ..
  | .fmov .. => EncodedFields.fmov ..
  | .fmant .. => EncodedFields.fmant ..
  | .fexp .. => EncodedFields.fexp ..
  | .fsign .. => EncodedFields.fsign ..
  | .msb .. => EncodedFields.msb ..
  | .lsb .. => EncodedFields.lsb ..
  | .iirnew .. => EncodedFields.iirnew ..
  | .iirpush .. => EncodedFields.iirpush ..
  | .iiravg .. => EncodedFields.iiravg ..
  | .firnew .. => EncodedFields.firnew ..
  | .firpush .. => EncodedFields.firpush ..
  | .firavg .. => EncodedFields.firavg ..
  | .cext .. => EncodedFields.cext ..
  | .ksel .. => EncodedFields.ksel ..
  | .kset .. => EncodedFields.kset ..
  | .cinit .. => EncodedFields.cinit ..
  | .cget .. => EncodedFields.cget ..
  | .adcext .. => EncodedFields.adcext ..
  | .comp .. => EncodedFields.comp ..
  | .pfeed .. => EncodedFields.pfeed ..
  | .pshal .. => EncodedFields.pshal ..
  | .pdeep .. => EncodedFields.pdeep ..
  | .psnap .. => EncodedFields.psnap ..
  | .adiff .. => EncodedFields.adiff ..
  | .preset .. => EncodedFields.preset ..

/-- The 16-bit immediate of LDB holds the byte index over the byte (R73). -/
theorem ldb_immediate (idx byte : BitVec 8) :
    BitVec.ofNat 8 ((idx.toNat * 2 ^ 8 + byte.toNat) / 2 ^ 8) = idx ∧
      BitVec.ofNat 8 (idx.toNat * 2 ^ 8 + byte.toNat) = byte := by
  constructor <;> apply BitVec.eq_of_toNat_eq <;> rw [BitVec.toNat_ofNat] <;> omega

/-- The map names every command for its own fields, and the fields its format does not use are zero (R71, R74). -/
theorem opcodeRow_fields (i : Instr) :
    ∃ fmt, opcodeRow i.fields = some (fmt, some i) ∧ fmt.unusedZero i.fields = true := by
  cases i
  case xli xd imm | xlih xd imm =>
    refine ⟨.i16, ?_, rfl⟩
    simp [opcodeRow, Instr.fields, Fields.imm16, Nat.div_add_mod']
  case ldb k idx byte =>
    obtain ⟨hidx, hbyte⟩ := ldb_immediate idx byte
    refine ⟨.i16, ?_, rfl⟩
    simp only [opcodeRow, Instr.fields, Fields.imm16, Nat.div_add_mod', hidx, hbyte, pairIndex_val]
    rfl
  -- Every other operand has a field of its own, whose reading gives the operand back.
  all_goals
    simp [opcodeRow, Instr.fields, Format.unusedZero]

theorem decode_encode {i : Instr} (h : i.wellFormed = true) : decode (encode i) = .ok i := by
  obtain ⟨fmt, hrow, hunused⟩ := opcodeRow_fields i
  rw [← fieldsOf_encode] at hrow hunused
  exact decode_ok hrow hunused h

/-- The word of an ill-formed command is illegal (R75, R76). -/
theorem decode_encode_illFormed {i : Instr} (h : i.wellFormed = false) : decode (encode i) = .error .operandRange := by
  obtain ⟨fmt, hrow, hunused⟩ := opcodeRow_fields i
  rw [← fieldsOf_encode] at hrow hunused
  exact decode_eq_operandRange hrow hunused h

/-! ### A row of the opcode table, field by field (R75) -/

/-- The bitwise conjunction, field by field. -/
def Fields.land (p q : Fields) : Fields :=
  ⟨p.op &&& q.op, p.d &&& q.d, p.a &&& q.a, p.b &&& q.b, p.imm12 &&& q.imm12⟩

theorem fieldsOf_and (v w : Word) : fieldsOf (v &&& w) = (fieldsOf v).land (fieldsOf w) := by
  simp only [fieldsOf, Fields.land, BitVec.toNat_and, Nat.and_div_two_pow, Nat.and_mod_two_pow]

theorem fieldsOf_inj {v w : Word} : fieldsOf v = fieldsOf w ↔ v = w :=
  ⟨fun h => by rw [← wordOf_fieldsOf v, h, wordOf_fieldsOf], congrArg _⟩

/-- The number that a range check bounds. -/
def FieldMax.read (m : FieldMax) (w : Word) : Nat := w.toNat / 2 ^ m.lo % 2 ^ m.width

theorem FieldMax.read_d (w : Word) (max : Nat) : FieldMax.read ⟨20, 4, max⟩ w = (fieldsOf w).d := rfl

theorem FieldMax.read_b (w : Word) (max : Nat) : FieldMax.read ⟨12, 4, max⟩ w = (fieldsOf w).b := rfl

theorem FieldMax.read_index (w : Word) (max : Nat) : FieldMax.read ⟨8, 8, max⟩ w = (fieldsOf w).imm16 / 2 ^ 8 := by
  simp only [FieldMax.read, fieldsOf, Fields.imm16]
  omega

theorem TableRow.accepts_iff (r : TableRow) (w : Word) : r.accepts w = true ↔
    (fieldsOf w).land (fieldsOf r.mask) = fieldsOf r.matchBits ∧ ∀ m ∈ r.fieldMax, m.read w ≤ m.max := by
  rw [← fieldsOf_and, fieldsOf_inj]
  cases h : r.fieldMax <;> simp [TableRow.accepts, FieldMax.read, h]

/-! The masks of a 4-bit field: whole, all but an integer register's three bits, all but a context's one bit. -/

theorem and_whole : ∀ v < 16, v &&& 15 = v := by decide

theorem and_above_register : ∀ v < 16, v &&& 8 = 0 ↔ v < 8 := by decide

theorem and_above_pair : ∀ v < 16, v &&& 14 = 0 ↔ v < 2 := by decide

theorem and_whole_opcode {v : Nat} (h : v < 256) : v &&& 255 = v := by
  rw [Nat.and_two_pow_sub_one_eq_mod v 8, Nat.mod_eq_of_lt h]

theorem and_whole_immediate {v : Nat} (h : v < 4096) : v &&& 4095 = v := by
  rw [Nat.and_two_pow_sub_one_eq_mod v 12, Nat.mod_eq_of_lt h]

/-! ### A row accepts the words of its command (R75) -/

theorem xReg_and_mask (i : XReg) : i.val &&& 8 = 0 := (and_above_register _ (by omega)).mpr i.isLt

theorem pair_and_mask (i : Fin 2) : i.val &&& 14 = 0 := (and_above_pair _ (by omega)).mpr i.isLt

theorem channel_and_mask (c : Channel) : c.code &&& 14 = 0 := by cases c <;> rfl

theorem selector_and_mask (c : FilterSel) : c.code &&& 14 = 0 := by cases c <;> rfl

/-- The row at a command's place in the table, which lists the commands in the order of `Instr`, has its mnemonic and
accepts its word. -/
theorem row_accepts_encode {i : Instr} (h : i.wellFormed = true) : ∃ r, opcodeTable[i.ctorIdx]? = some r ∧
    r.mnemonic = (Machine.instrParts i).1 ∧ r.accepts (encode i) = true := by
  cases i
  all_goals
    refine ⟨_, rfl, rfl, ?_⟩
    simp only [TableRow.accepts_iff, Option.mem_def, Option.some.injEq, forall_eq', FieldMax.read_d, FieldMax.read_b,
      FieldMax.read_index, fieldsOf_encode]
    simp [fieldsOf, Fields.land, Fields.imm16, Instr.fields, xReg_and_mask, pair_and_mask, channel_and_mask,
      selector_and_mask]
  -- What is left is the bound of a row that has one, which is the command's range check.
  all_goals
    simp only [Instr.wellFormed, decide_eq_true_eq] at h
    omega

/-! ### A word that a row accepts decodes (R75, R76) -/

theorem xIndex_of_lt {v : Nat} (h : v < 8) : xIndex v = some ⟨v, h⟩ := dif_pos h

theorem fIndex_of_lt {v : Nat} (h : v < 16) : fIndex v = some ⟨v, h⟩ := dif_pos h

theorem pairIndex_of_lt {v : Nat} (h : v < 2) : pairIndex v = some ⟨v, h⟩ := dif_pos h

theorem channelOf_of_lt {v : Nat} (h : v < 2) : channelOf v = some (if v = 0 then .temperature else .pressure) := by
  interval_cases v <;> rfl

theorem selectorOf_of_lt {v : Nat} (h : v < 2) : selectorOf v = some (if v = 0 then .shallow else .deep) := by
  interval_cases v <;> rfl

theorem opcodeRow_of_accepts {r : TableRow} (hr : r ∈ opcodeTable) {w : Word} (h : r.accepts w = true) :
    ∃ fmt i, opcodeRow (fieldsOf w) = some (fmt, some i) ∧ fmt.unusedZero (fieldsOf w) = true ∧
      i.wellFormed = true ∧ (Machine.instrParts i).1 = r.mnemonic := by
  have hq := fieldsOf_inRange w
  rw [TableRow.accepts_iff] at h
  fin_cases hr
  -- In each of the 36 rows `h` fixes the opcode, bounds every operand by its range and makes the unused fields zero.
  all_goals
    simp only [Option.mem_def, Option.some.injEq, forall_eq', FieldMax.read_d, FieldMax.read_b, FieldMax.read_index]
      at h
    generalize fieldsOf w = q at h hq ⊢
    obtain ⟨op, d, a, b, imm⟩ := q
    obtain ⟨hop, hd, ha, hb, himm⟩ := hq
    simp only [Nat.reducePow] at hop hd ha hb himm
    simp [fieldsOf, Fields.land, Fields.imm16, and_whole_opcode hop, and_whole _ hd, and_whole _ ha, and_whole _ hb,
      and_whole_immediate himm, and_above_register _ hd, and_above_register _ ha, and_above_register _ hb,
      and_above_pair _ hd, and_above_pair _ ha, and_above_pair _ hb] at h
    simp [opcodeRow, h, xIndex_of_lt, fIndex_of_lt, pairIndex_of_lt, channelOf_of_lt, selectorOf_of_lt, hd, ha, hb,
      Format.unusedZero, Instr.wellFormed, Machine.instrParts, Fields.imm16]
  all_goals omega

theorem mnemonics_nodup : (opcodeTable.map TableRow.mnemonic).Nodup := by decide

theorem row_eq_of_mnemonic {r r' : TableRow} (hr : r ∈ opcodeTable) (hr' : r' ∈ opcodeTable)
    (h : r.mnemonic = r'.mnemonic) : r = r' :=
  List.inj_on_of_nodup_map mnemonics_nodup hr hr' h

theorem row_accepts_iff {r : TableRow} (hr : r ∈ opcodeTable) (w : Word) :
    r.accepts w = true ↔ ∃ i, decode w = .ok i ∧ (Machine.instrParts i).1 = r.mnemonic := by
  constructor
  · intro h
    obtain ⟨fmt, i, hrow, hunused, hwf, hmnemonic⟩ := opcodeRow_of_accepts hr h
    exact ⟨i, decode_ok hrow hunused hwf, hmnemonic⟩
  · rintro ⟨i, hdecode, hmnemonic⟩
    obtain ⟨r', hget, hmnemonic', haccepts⟩ := row_accepts_encode (decode_wellFormed hdecode)
    rw [row_eq_of_mnemonic hr (List.mem_of_getElem? hget) (hmnemonic.symm.trans hmnemonic'.symm)]
    rwa [encode_of_decode hdecode] at haccepts

theorem decode_error_iff (w : Word) : (∃ e, decode w = .error e) ↔ ∀ r ∈ opcodeTable, r.accepts w = false := by
  constructor
  · rintro ⟨e, he⟩ r hr
    by_contra h
    obtain ⟨i, hi, -⟩ := (row_accepts_iff hr w).mp (by simpa using h)
    simp [he] at hi
  · intro h
    cases hdecode : decode w with
    | error e => exact ⟨e, rfl⟩
    | ok i =>
      obtain ⟨r, hget, -, haccepts⟩ := row_accepts_encode (decode_wellFormed hdecode)
      rw [encode_of_decode hdecode, h r (List.mem_of_getElem? hget)] at haccepts
      cases haccepts

/-! ### The statements -/

/-- Settles O1: the map names a command for the fields of its word. -/
theorem decodeOfEncodeIsTheCommand : Obligations.DecodeOfEncodeIsTheCommand := fun _ => decode_encode

/-- Settles O2: the operands of a decoded command are read from fields that its encoding writes back. -/
theorem encodeOfDecodeIsTheWord : Obligations.EncodeOfDecodeIsTheWord := fun _ _ => encode_of_decode

/-- Settles O3: a row accepts its command's words and no others, and every command has a row. -/
theorem legalWordsAreTheTableRows : Obligations.LegalWordsAreTheTableRows :=
  fun w => ⟨fun _ hr => row_accepts_iff hr w, decode_error_iff w⟩

end Sys2Proof
end

section
/-! The register map of the port, and the statements about steps and runs (00_scope.md, 10_state.md, 20_memory.md). -/

namespace Sys2Proof.Machine

/-! ### The register map (R51, R53) -/

theorem number_of_portMap_below : ∀ n : Fin 0x300, ∀ reg ∈ portMap n.val, reg.number = n.val := by decide +kernel

theorem number_of_portMap {n : Nat} {reg : PortReg} (h : portMap n = some reg) : reg.number = n := by
  by_cases hn : n < 0x300
  · exact number_of_portMap_below ⟨n, hn⟩ reg h
  · rw [portMap_outside n (by omega)] at h
    cases h

theorem portMap_slot (u : FirUnit) (j : Fin 32) : portMap (u.slotNumber + j.val) = some (.slot u j) := by
  cases u with
  | alone u => revert u j; decide
  | shallow k => revert k j; decide
  | deep k => revert k j; decide

theorem portMap_fir (u : FirUnit) (w : FilterWord) : portMap (u.ctlNumber + w.offset) = some (.fir u w) := by
  cases u with
  | alone u => cases w <;> revert u <;> decide
  | shallow k => cases w <;> revert k <;> decide
  | deep k => cases w <;> revert k <;> decide

/-- Every register is at its number (R53). -/
theorem portMap_number (reg : PortReg) : portMap reg.number = some reg := by
  cases reg with
  | cmd | status | fcause | fcmd | errcnt => rfl
  | mant p => exact (portMap_place p).1
  | exp p => exact (portMap_place p).2
  | fir u w => exact portMap_fir u w
  | slot u j => exact portMap_slot u j
  | coef k i => exact portMap_coef k i
  | rawt k i => exact portMap_rawt k i
  | rawp k i => exact portMap_rawp k i
  | iir u w => cases w <;> revert u <;> decide
  | x i => revert i; decide
  | mcfg k | fcfg k | pstat k | fexp k => revert k; decide
  | craw k i => revert k i; decide

theorem number_lt (reg : PortReg) : reg.number < 0x300 := by
  by_contra h
  have hmap := portMap_number reg
  rw [portMap_outside _ (by omega)] at hmap
  cases hmap

/-- Settles O50: a number past the port space names nothing, and below it the map and the numbers are inverse. -/
theorem registerMapIsOneToOne : Obligations.RegisterMapIsOneToOne :=
  ⟨fun reg => ⟨portMap_number reg, number_lt reg⟩, fun _ _ => number_of_portMap⟩

/-! ### The step at each kind of transaction (R17, R61) -/

section
variable {s : State} {rest : List Event}

theorem step_command {w : Word} (h : s.pending = .write 0 w :: rest) : step s = issue w { s with pending := rest } := by
  simp only [step, State.accept, h, portMap_eq_cmd_iff, if_true]

theorem step_reset (h : s.pending = .reset :: rest) : step s = .next (State.afterReset { s with pending := rest }) := by
  simp only [step, State.accept, h]

theorem step_idle (h : s.pending = []) : step s = .next s := by
  simp only [step, State.accept, h]

end

theorem issue_of_decode {w : Word} {i : Instr} (h : decode w = .ok i) (s : State) : issue w s = exec i s := by
  simp only [issue, h]

theorem issue_of_illegal {w : Word} {e : Illegal} (h : decode w = .error e) (s : State) :
    issue w s = .next (s.raise .illegalCommand w) := by
  simp only [issue, h]

/-- Settles O5: register number 0 is `CMD`, and a legal word is issued as its command. -/
theorem stepRunsTheDecodedCommand : Obligations.StepRunsTheDecodedCommand := by
  intro s w rest i hpending hdecode
  rw [step_command hpending, issue_of_decode hdecode]

/-- Settles O55: the reset event replaces every field but the parameters and the queue. -/
theorem resetInputRestoresEverything : Obligations.ResetInputRestoresEverything :=
  fun _ _ => step_reset

/-! ### Every run goes on (R17, R260) -/

theorem step_next (s : State) : ∃ t, step s = .next t := by
  rcases step_cases s with ⟨-, h⟩ | ⟨w, rest, -, h⟩ | ⟨r, v, rest, -, -, h⟩ | ⟨r, rest, -, h⟩ | ⟨rest, -, h⟩
  case inr.inl =>
    rcases issue_cases w { s with pending := rest } with ⟨i, -, hissue⟩ | ⟨e, -, hissue⟩
    · rw [h, hissue]
      exact exec_next i _
    · exact ⟨_, h.trans hissue⟩
  all_goals exact ⟨_, h⟩

theorem exists_runsTo (n : Nat) (s : State) : ∃ t, runsTo n s t := by
  induction n generalizing s with
  | zero => exact ⟨s, rfl⟩
  | succ n ih =>
    obtain ⟨u, hu⟩ := step_next s
    obtain ⟨t, ht⟩ := ih u
    exact ⟨t, u, hu, ht⟩

/-- Settles O7: every step ends in a next state, so a run of any length is built one step at a time. -/
theorem everyRunGoesOn : Obligations.EveryRunGoesOn :=
  ⟨exists_runsTo, fun _ => step_idle⟩

/-! ### Illegal words and ill-formed commands (R75, R76) -/

theorem exec_cext_illegal (xd : XReg) (k : CtxId) {i : BitVec 4} (h : 8 < i.toNat) (s : State) :
    exec (.cext xd k i) s = .next (s.raise .illegalCommand (encode (.cext xd k i))) := by
  rw [exec, execCext, dif_neg (by omega)]; rfl

theorem exec_cget_illegal (fd : FReg) (k : CtxId) {i : BitVec 4} (h : 12 < i.toNat) (s : State) :
    exec (.cget fd k i) s = .next (s.raise .illegalCommand (encode (.cget fd k i))) := by
  rw [exec, execCget, named_illegal _ h]; rfl

/-- The four commands with a range check of their own raise `IllegalCommand` where it fails (R75, log entry 14). -/
theorem exec_illFormed {i : Instr} (h : i.wellFormed = false) (s : State) :
    exec i s = .next (s.raise .illegalCommand (encode i)) := by
  cases i
  case ldb k idx byte => exact exec_ldb_illegal (by simpa [Instr.wellFormed] using h) byte s
  case cext xd k i => exact exec_cext_illegal xd k (by simpa [Instr.wellFormed] using h) s
  case cget fd k i => exact exec_cget_illegal fd k (by simpa [Instr.wellFormed] using h) s
  case psnap xd k sel =>
    have hxd : 6 < xd.val := by simpa [Instr.wellFormed] using h
    exact exec_psnap_pair (by omega) k sel s
  all_goals cases h

theorem issue_encode (i : Instr) (s : State) : issue (encode i) s = exec i s := by
  cases h : i.wellFormed with
  | true => exact issue_of_decode (decode_encode h) s
  | false => rw [issue_of_illegal (decode_encode_illFormed h), exec_illFormed h]

/-- Settles O6: a well-formed command is decoded from its word, and an ill-formed one raises what its word raises. -/
theorem issuedEncodingRunsTheTerm : Obligations.IssuedEncodingRunsTheTerm :=
  ⟨issue_encode, fun _ s h => exec_illFormed h s⟩

/-- Settles O9: a word that no row accepts does not decode, and the record of `IllegalCommand` has code 1. -/
theorem illegalWordsRaiseIllegalCommand : Obligations.IllegalWordsRaiseIllegalCommand := by
  intro w s hrows
  obtain ⟨e, he⟩ := (decode_error_iff w).mpr hrows
  rw [issue_of_illegal he, raise_eq_record]
  rfl

/-! ### The sticky flags (R26) -/

/-- Every flag set in `v` is set in `w`. -/
def FlagsStay (v w : Word) : Prop := ∀ n, v.getLsbD n = true → w.getLsbD n = true

theorem flagsStay_stickySet (v : Word) (c : Cause) : FlagsStay v (stickySet v c) := by
  intro n hn
  rw [stickySet, BitVec.getLsbD_or, hn, Bool.true_or]

/-- Of the commands only FCLR writes `STATUS` when it completes (R211). -/
theorem Effect.status {s u : State} {i : Instr} (h : Effect s i u) (hi : i ≠ .fclr) : u.status = s.status := by
  cases h
  case clear => exact absurd rfl hi
  all_goals rfl

theorem storeReg_status (s : State) {reg : PortReg} (h : reg ≠ .status) (v : Word) :
    (s.storeReg reg v).status = s.status := by
  cases reg
  case status => exact absurd rfl h
  all_goals rfl

/-- Of the port registers only `STATUS`, number 1, takes a write to `STATUS` (R53). -/
theorem portWrite_status (s : State) {r : Nat} (h : r ≠ 1) (v : Word) : (s.portWrite r v).status = s.status := by
  unfold State.portWrite
  split
  case h_1 reg hmap =>
    refine storeReg_status s (fun hstatus => h ?_) v
    rw [← number_of_portMap hmap, hstatus]
    rfl
  case h_2 => rfl

theorem issue_flagsStay {w : Word} {s t : State} (h : issue w s = .next t) (hw : w ≠ encode .fclr) :
    FlagsStay s.status t.status := by
  obtain ⟨i, u, hdecode, heffect, rfl⟩ | ⟨c, rfl⟩ := issue_next_cases h
  · have hi : i ≠ .fclr := fun hi => hw (by rw [← hi, encode_of_decode hdecode])
    rw [State.respond_status, heffect.status hi]
    exact fun _ => id
  · exact flagsStay_stickySet _ c

/-- Settles O11: a fault sets one flag, and nothing but FCLR, a write to `STATUS` and reset clears any. -/
theorem stickyFlagsStay : Obligations.StickyFlagsStay := by
  intro s t h hreset hstatus hfclr
  change FlagsStay s.status t.status
  rcases step_cases s with ⟨-, hs⟩ | ⟨w, rest, hp, hs⟩ | ⟨r, v, rest, hp, -, hs⟩ | ⟨r, rest, -, hs⟩ | ⟨rest, hp, -⟩
  · cases hs.symm.trans h
    exact fun _ => id
  · exact issue_flagsStay (s := { s with pending := rest }) (hs.symm.trans h) fun hw => hfclr rest (hw ▸ hp)
  · cases hs.symm.trans h
    have hr : r ≠ 1 := fun hr => hstatus v rest (hr ▸ hp)
    rw [State.respond_status, portWrite_status _ hr]
    exact fun _ => id
  · cases hs.symm.trans h
    exact fun _ => id
  · exact absurd hp (hreset rest)

/-! ### The progress flags (R36) -/

/-- The flags of a context that a port write leaves: all three of `PSTAT` (R36, R55). -/
theorem ContextStore.progress {c c' : Context} (h : ContextStore c c') :
    c'.calibrated = c.calibrated ∧ c'.compvalid = c.compvalid ∧ c'.primed = c.primed := by
  cases h <;> exact ⟨rfl, rfl, rfl⟩

/-- A command clears no progress flag but PRESET, which clears `PRIMED` (R36, R200). -/
theorem ContextWrite.progress {k : CtxId} {c c' : Context} {i : Instr} (h : ContextWrite k c i c') :
    (c.calibrated = true → c'.calibrated = true) ∧ (c.compvalid = true → c'.compvalid = true) ∧
      (i ≠ .preset k → c.primed = true → c'.primed = true) := by
  cases h
  case ldb idx byte =>
    rcases c.storeByte_cases idx.toNat byte with heq | hstore
    · rw [heq]; exact ⟨id, id, fun _ => id⟩
    · obtain ⟨hcal, hvalid, hprimed⟩ := hstore.progress
      rw [hcal, hvalid, hprimed]; exact ⟨id, id, fun _ => id⟩
  case kset _ _ ch _ => cases ch <;> exact ⟨id, id, fun _ => id⟩
  case ksel => exact ⟨id, id, fun _ => id⟩
  case cinit => exact ⟨fun _ => rfl, id, fun _ => id⟩
  case comp => exact ⟨id, fun _ => rfl, fun _ => id⟩
  case pfeed => exact ⟨id, id, fun _ _ => rfl⟩
  case preset => exact ⟨id, id, fun hne => absurd rfl hne⟩

/-- Settles O12: of what a step can do to a context, only the PRESET of it clears a progress flag. -/
theorem progressFlagsStay : Obligations.ProgressFlagsStay := by
  intro s t k h hreset
  rcases step_readCtx h hreset k with hkeep | hstore | ⟨w, rest, i, hp, hdecode, hwrite⟩
  · rw [hkeep]; exact ⟨id, id, fun _ => id⟩
  · obtain ⟨hcal, hvalid, hprimed⟩ := hstore.progress
    rw [hcal, hvalid, hprimed]; exact ⟨id, id, fun _ => id⟩
  · obtain ⟨hcal, hvalid, hprimed⟩ := hwrite.progress
    refine ⟨hcal, hvalid, fun hpreset => hprimed fun hi => hpreset rest ?_⟩
    rw [hp, ← encode_of_decode hdecode, hi]

end Sys2Proof.Machine
end

section
/-! The invariant of the block (10_state.md): what each unit computes keeps its own part of it, and every step keeps it
whole. -/

namespace Sys2Proof.Machine

/-! ### The SoftFloat values that a command stores (R21, R101) -/

theorem SoftFloat.zero_normalized : SoftFloat.zero.Normalized := .inl rfl

theorem Answers.normalized {m : Except Cause SoftFloat} {P : SoftFloat → Prop} (h : Answers m P)
    (hP : ∀ q, P q → q.Normalized) {q : SoftFloat} (hq : m = .ok q) : q.Normalized :=
  hP q ((h.ok_iff q).mp hq)

section
variable {a b q : SoftFloat} (ha : a.Normalized) (hb : b.Normalized)
include ha hb

theorem fAdd_normalized (h : fAdd a b = .ok q) : q.Normalized := (fAdd_answers ha hb).normalized (fun _ => And.left) h

theorem fSub_normalized (h : fSub a b = .ok q) : q.Normalized := (fSub_answers ha hb).normalized (fun _ => And.left) h

end

theorem fDiv_normalized {a b q : SoftFloat} (h : fDiv a b = .ok q) : q.Normalized := by
  unfold fDiv at h
  split at h
  · cases h
  · exact normalize_normalized _ _ q h

theorem pressureDifference_normalized {total static : Context} {q : SoftFloat}
    (h : pressureDifference total static = .ok q) : q.Normalized := by
  obtain ⟨-, h⟩ := (require_bind_eq_ok_iff _ _ _ _).mp h
  obtain ⟨a, ha, h⟩ := (except_bind_eq_ok_iff _ _ _).mp h
  obtain ⟨b, hb, h⟩ := (except_bind_eq_ok_iff _ _ _).mp h
  exact fSub_normalized (normalize_normalized _ _ a ha) (normalize_normalized _ _ b hb) h

theorem IsQuotientChain.normalized {q : SoftFloat} {y : ℚ} {ks : List SoftFloat} (h : IsQuotientChain q y ks) :
    q.Normalized := by
  induction ks generalizing y with
  | nil => exact h.1
  | cons k ks ih =>
    obtain ⟨m, -, hm⟩ := h
    exact ih hm

/-- The coefficients that CINIT stores are normalized (R167). -/
theorem scaleCoefs_normalized {r : Vector Word 9} {kt kp : SoftFloat} (hkt : kt.IsDivisor) (hkp : kp.IsDivisor)
    {n : Vector SoftFloat 9} (h : scaleCoefs r kt kp = .ok n) (i : Fin 9) : n[i.val].Normalized :=
  ((isScaledSet_iff ..).mp (((scaleCoefs_answers r hkt hkp).ok_iff n).mp h) i).normalized

/-- The temperature and the pressure that COMP stores are normalized (R182). -/
theorem IsCompensation.normalized {cs : Vector SoftFloat 9} {rawt rawp : Int} {T P : SoftFloat}
    (h : IsCompensation cs rawt rawp T P) : T.Normalized ∧ P.Normalized := by
  obtain ⟨_, _, -, -, ⟨_, -, hT⟩, hP⟩ := isCompensation_iff.mp h
  obtain ⟨_, -, _, -, _, -, _, -, _, -, _, -, _, -, _, -, _, -, _, -, hP⟩ := hP
  exact ⟨hT.1, hP.1⟩

/-! ### The filter units (R32) -/

theorem iirNew_consistent (dp : Fin 32) (v : Word) : (iirNew dp v).Consistent := by
  obtain ⟨-, hdp, havg, hsum⟩ := iirNew_isNew dp v
  rw [Iir.Consistent, hsum, ← pow2_eq, hdp, havg]
  exact (asr_shl _ _).symm

theorem Iir.Consistent.push_consistent {u : Iir} (h : u.Consistent) (v : Word) : (iirPush u v).Consistent :=
  (h.push v).consistent

theorem Iir.reset_consistent : Iir.reset.Consistent := by decide

theorem Fir.reset_consistent : Fir.reset.Consistent := by decide

/-! ### A context (R21, R32 to R36) -/

theorem Context.PlacesNormalized.named {c : Context} (h : c.PlacesNormalized) {i : Nat} {v : SoftFloat}
    (hv : c.named i = some v) : v.Normalized := by
  obtain ⟨hkt, hkp, htcomp, hpcomp, hc⟩ := h
  unfold Context.named at hv
  split at hv
  case isTrue hi => cases hv; exact hc ⟨i, hi⟩
  case isFalse => split at hv <;> cases hv <;> assumption

theorem Context.reset_inv : Context.reset.Inv := by
  have hzero := SoftFloat.zero_normalized
  have hcoefs (i : Fin 9) : Context.reset.c[i.val].Normalized := by simpa [Context.reset] using hzero
  exact ⟨⟨hzero, hzero, hzero, hzero, hcoefs⟩, ⟨fun _ => ⟨rfl, rfl, rfl⟩, nofun⟩, by decide, nofun, nofun⟩

section
variable {c c' : Context} (h : c.Inv)
include h

/-- The byte buffers are no part of the invariant. -/
theorem Context.Inv.storeByte (idx : Nat) (v : Byte) : (c.storeByte idx v).Inv := by
  unfold Context.storeByte
  split_ifs <;> exact h

theorem Context.Inv.scaleFactors {kt kp : SoftFloat} (hkt : kt.Normalized) (hkp : kp.Normalized) :
    Context.Inv { c with kt := kt, kp := kp } := by
  obtain ⟨⟨-, -, hresults⟩, hrest⟩ := h
  exact ⟨⟨hkt, hkp, hresults⟩, hrest⟩

theorem Context.Inv.setScale {v : SoftFloat} (hv : v.Normalized) (ch : Channel) : (c.setScale v ch).Inv := by
  have ⟨⟨hkt, hkp, _⟩, _⟩ := h
  cases ch
  case temperature => exact h.scaleFactors hv hkp
  case pressure => exact h.scaleFactors hkt hv

/-- CINIT stores truncated quotients and sets a flag that no other waits for (R36, R167). -/
theorem Context.Inv.calibrate {p : Params} (hc : calibrate p c = .ok c') : c'.Inv := by
  obtain ⟨⟨hkt, hkp, htcomp, hpcomp, -⟩, hpipeline, hreserved, -, hprimed⟩ := h
  obtain ⟨-, hc⟩ := (require_bind_eq_ok_iff _ _ _ _).mp hc
  obtain ⟨hfactors, hc⟩ := (require_bind_eq_ok_iff _ _ _ _).mp hc
  obtain ⟨n, hn, hc⟩ := (except_bind_eq_ok_iff _ _ _).mp hc
  cases hc
  obtain ⟨hktne, hkpne⟩ : c.kt.mant ≠ 0 ∧ c.kp.mant ≠ 0 := by simpa using hfactors
  exact ⟨⟨hkt, hkp, htcomp, hpcomp, scaleCoefs_normalized ⟨hkt, hktne⟩ ⟨hkp, hkpne⟩ hn⟩, hpipeline, hreserved,
    fun _ => rfl, hprimed⟩

/-- COMP stores truncated results, and only of a calibrated context (R36, R182). -/
theorem Context.Inv.compensate (hc : compensate c = .ok c') : c'.Inv := by
  obtain ⟨⟨hkt, hkp, -, -, hcoefs⟩, hpipeline, hreserved, -, -⟩ := h
  obtain ⟨calibrated, -⟩ := (require_bind_eq_ok_iff _ _ _ _).mp hc
  obtain ⟨T, P, hTP, rfl⟩ := ((compensate_answers calibrated hcoefs).ok_iff c').mp hc
  obtain ⟨hT, hP⟩ := hTP.normalized
  exact ⟨⟨hkt, hkp, hT, hP, hcoefs⟩, hpipeline, hreserved, fun _ => calibrated, fun _ => rfl⟩

/-- A priming PFEED makes both filters new (R192). -/
theorem Context.Inv.prime (valid : c.compvalid = true) (hc : prime c = .ok c') : c'.Inv := by
  obtain ⟨hplaces, -, hreserved, hvalid, -⟩ := h
  obtain ⟨depthS, -, hc⟩ := (except_bind_eq_ok_iff _ _ _).mp hc
  obtain ⟨depthD, -, hc⟩ := (except_bind_eq_ok_iff _ _ _).mp hc
  obtain ⟨-, hc⟩ := (require_bind_eq_ok_iff _ _ _ _).mp hc
  cases hc
  exact ⟨hplaces, ⟨nofun, fun _ => ⟨⟨rfl, firNew_consistent _ _ _⟩, rfl, firNew_consistent _ _ _⟩⟩, hreserved, hvalid,
    fun _ => valid⟩

/-- A primed PFEED pushes into both filters (R190). -/
theorem Context.Inv.feedPrimed (primed : c.primed = true) (hc : feedPrimed c = .ok c') : c'.Inv := by
  obtain ⟨hplaces, ⟨-, hfilters⟩, hreserved, hvalid, hprimed⟩ := h
  obtain ⟨⟨hsvalid, hshal⟩, hdvalid, hdeep⟩ := hfilters primed
  obtain ⟨sample, -, hc⟩ := (except_bind_eq_ok_iff _ _ _).mp hc
  cases hc
  refine ⟨hplaces, ⟨fun unprimed => absurd (primed.symm.trans unprimed) nofun, fun _ => ⟨?_, ?_⟩⟩, hreserved, hvalid,
    hprimed⟩
  · exact ⟨hsvalid, hshal.push_consistent sample⟩
  · exact ⟨hdvalid, hdeep.push_consistent sample⟩

theorem Context.Inv.feed (hc : feed c = .ok c') : c'.Inv := by
  obtain ⟨valid, hc⟩ := (require_bind_eq_ok_iff _ _ _ _).mp hc
  split at hc
  case isTrue primed => exact h.feedPrimed primed hc
  case isFalse => exact h.prime valid hc

theorem Context.Inv.resetPipeline : c.resetPipeline.Inv := by
  obtain ⟨hplaces, -, hreserved, hvalid, -⟩ := h
  exact ⟨hplaces, ⟨fun _ => ⟨rfl, rfl, rfl⟩, nofun⟩, hreserved, hvalid, nofun⟩

end

/-! ### The state, place by place -/

section
variable {s : State} (h : s.Inv)
include h

theorem State.Inv.writeF (i : FReg) {v : SoftFloat} (hv : v.Normalized) : (s.writeF i v).Inv := by
  obtain ⟨hf, hrest⟩ := h
  refine ⟨fun j => ?_, hrest⟩
  rw [State.readF_writeF]
  split
  · exact hv
  · exact hf j

theorem State.Inv.writeIir (i : UnitId) {v : Iir} (hv : v.Consistent) : (s.writeIir i v).Inv := by
  obtain ⟨hf, hrecord, hiir, hrest⟩ := h
  refine ⟨hf, hrecord, fun j => ?_, hrest⟩
  rw [State.readIir_writeIir]
  split
  · exact hv
  · exact hiir j

theorem State.Inv.writeFir (i : UnitId) {v : Fir} (hv : v.Consistent) : (s.writeFir i v).Inv := by
  obtain ⟨hf, hrecord, hiir, hfir, hctx⟩ := h
  refine ⟨hf, hrecord, hiir, fun j => ?_, hctx⟩
  rw [State.readFir_writeFir]
  split
  · exact hv
  · exact hfir j

theorem State.Inv.writeCtx (k : CtxId) {c : Context} (hc : c.Inv) : (s.writeCtx k c).Inv := by
  obtain ⟨hf, hrecord, hiir, hfir, hctx⟩ := h
  refine ⟨hf, hrecord, hiir, hfir, fun j => ?_⟩
  rw [State.readCtx_writeCtx]
  split
  · exact hc
  · exact hctx j

theorem State.Inv.ctx (k : CtxId) : (s.readCtx k).Inv := by
  obtain ⟨-, -, -, -, hctx⟩ := h
  exact hctx k

/-- The record after a fault is legal: a flag is one of the bits 10:1, and the code is at most 10 (R26, R27). -/
theorem State.Inv.raise (cause : Cause) (w : Word) : (s.raise cause w).Inv := by
  obtain ⟨hf, ⟨hstatus, -⟩, hrest⟩ := h
  refine ⟨hf, ⟨?_, ?_⟩, hrest⟩
  · have hflag : cause.flag &&& ~~~statusMask = 0 := by cases cause <;> rfl
    rw [State.raise_status, stickySet, BitVec.and_or_distrib_right, hstatus, hflag]
    rfl
  · rw [State.raise_fcause]; cases cause <;> decide

theorem State.Inv.clearFaults : s.clearFaults.Inv := by
  obtain ⟨hf, -, hrest⟩ := h
  exact ⟨hf, ⟨BitVec.zero_and, Nat.zero_le _⟩, hrest⟩

theorem State.Inv.withStatus {v : Word} (hv : v &&& ~~~statusMask = 0) : State.Inv { s with status := v } := by
  obtain ⟨hf, ⟨-, hfcause⟩, hrest⟩ := h
  exact ⟨hf, ⟨hv, hfcause⟩, hrest⟩

/-- A command keeps the invariant if its effect does. -/
theorem State.Inv.finish {i : Instr} {e : Except Cause State} {t : State} (he : ∀ u, e = .ok u → u.Inv)
    (ht : s.finish i e = .next t) : t.Inv := by
  obtain ⟨u, hu, rfl⟩ | ⟨cause, -, rfl⟩ := (s.finish_next_iff i e t).mp ht
  · exact he u hu
  · exact h.raise cause _

theorem State.Inv.map_writeF {fd : FReg} {m : Except Cause SoftFloat} (hm : ∀ q, m = .ok q → q.Normalized) {u : State}
    (hu : m.map (s.writeF fd) = .ok u) : u.Inv := by
  obtain ⟨q, hq, rfl⟩ := (except_map_eq_ok_iff _ _ _).mp hu
  exact h.writeF fd (hm q hq)

theorem State.Inv.map_writeCtx {k : CtxId} {m : Except Cause Context} (hm : ∀ c, m = .ok c → c.Inv) {u : State}
    (hu : m.map (s.writeCtx k) = .ok u) : u.Inv := by
  obtain ⟨c, hc, rfl⟩ := (except_map_eq_ok_iff _ _ _).mp hu
  exact h.writeCtx k (hm c hc)

/-! ### The commands -/

theorem State.Inv.exec {i : Instr} {t : State} (ht : exec i s = .next t) : t.Inv := by
  have ⟨hf, _, hiir, hfir, _⟩ := h
  cases i
  all_goals
    rw [Machine.exec] at ht
    refine h.finish (fun u hu => ?_) ht
  -- system
  case nop | xli | xlih => cases hu; exact h
  case fclr => cases hu; exact h.clearFaults
  case ldb k idx byte =>
    obtain ⟨-, hu⟩ := (require_bind_eq_ok_iff _ _ _ _).mp hu
    cases hu
    exact h.writeCtx k ((h.ctx k).storeByte _ _)
  -- SoftFloat
  case fadd fd fa fb => exact h.map_writeF (fun _ => fAdd_normalized (hf fa) (hf fb)) hu
  case fsub fd fa fb => exact h.map_writeF (fun _ => fSub_normalized (hf fa) (hf fb)) hu
  case fdiv => exact h.map_writeF (fun _ => fDiv_normalized) hu
  case fmul | fmuli | ffrom => exact h.map_writeF (normalize_normalized _ _) hu
  case fmov fd fa => cases hu; exact h.writeF fd (hf fa)
  case fmant | fexp | fsign | msb | lsb => cases hu; exact h
  -- filters
  case iirnew u _ _ =>
    obtain ⟨_, -, hu⟩ := (except_bind_eq_ok_iff _ _ _).mp hu
    cases hu
    exact h.writeIir u (iirNew_consistent _ _)
  case iirpush u _ =>
    obtain ⟨-, hu⟩ := (require_bind_eq_ok_iff _ _ _ _).mp hu
    cases hu
    exact h.writeIir u ((hiir u).push_consistent _)
  case firnew u _ _ =>
    obtain ⟨_, -, hu⟩ := (except_bind_eq_ok_iff _ _ _).mp hu
    cases hu
    exact h.writeFir u (firNew_consistent _ _ _)
  case firpush u _ =>
    obtain ⟨-, hu⟩ := (require_bind_eq_ok_iff _ _ _ _).mp hu
    cases hu
    exact h.writeFir u ((hfir u).push_consistent _)
  case iiravg | firavg =>
    obtain ⟨-, hu⟩ := (require_bind_eq_ok_iff _ _ _ _).mp hu
    cases hu
    exact h
  -- calibration
  case cext => split at hu <;> cases hu; exact h
  case ksel k =>
    obtain ⟨-, hu⟩ := (require_bind_eq_ok_iff _ _ _ _).mp hu
    obtain ⟨kt, hkt, hu⟩ := (except_bind_eq_ok_iff _ _ _).mp hu
    obtain ⟨kp, hkp, hu⟩ := (except_bind_eq_ok_iff _ _ _).mp hu
    cases hu
    exact h.writeCtx k ((h.ctx k).scaleFactors (normalize_normalized _ _ kt hkt) (normalize_normalized _ _ kp hkp))
  case kset k fa ch =>
    obtain ⟨-, hu⟩ := (require_bind_eq_ok_iff _ _ _ _).mp hu
    cases hu
    exact h.writeCtx k ((h.ctx k).setScale (hf fa) ch)
  case cinit k => exact h.map_writeCtx (fun _ => (h.ctx k).calibrate) hu
  case cget fd k idx =>
    split at hu <;> cases hu
    case h_1 v hv => exact h.writeF fd ((h.ctx k).1.named hv)
  -- compensation
  case adcext => cases hu; exact h
  case comp k => exact h.map_writeCtx (fun _ => (h.ctx k).compensate) hu
  -- pipeline
  case pfeed k => exact h.map_writeCtx (fun _ => (h.ctx k).feed) hu
  case pshal fd k | pdeep fd k =>
    obtain ⟨-, hu⟩ := (require_bind_eq_ok_iff _ _ _ _).mp hu
    obtain ⟨q, hq, hu⟩ := (except_bind_eq_ok_iff _ _ _).mp hu
    cases hu
    exact h.writeF fd (normalize_normalized _ _ q hq)
  case psnap =>
    split at hu
    case isTrue =>
      obtain ⟨-, hu⟩ := (require_bind_eq_ok_iff _ _ _ _).mp hu
      cases hu
      exact h
    case isFalse => cases hu
  case adiff => exact h.map_writeF (fun _ => pressureDifference_normalized) hu
  case preset k => cases hu; exact h.writeCtx k (h.ctx k).resetPipeline

theorem State.Inv.issue {w : Word} {t : State} (ht : issue w s = .next t) : t.Inv := by
  rcases issue_cases w s with ⟨i, -, hi⟩ | ⟨e, -, hi⟩
  · exact h.exec (hi.symm.trans ht)
  · cases hi.symm.trans ht
    exact h.raise _ w

/-! ### The port -/

theorem State.Inv.portWrite (r : Nat) (v : Word) : (s.portWrite r v).Inv := by
  have ⟨_, ⟨hstatus, _⟩, _⟩ := h
  rcases portWrite_cases s r v with hw | hw | ⟨i, hw⟩ | ⟨k, hw | hw | ⟨i, hw⟩ | ⟨i, hw⟩ | ⟨i, hw⟩⟩ <;> rw [hw]
  · exact h
  · refine h.withStatus ?_
    rw [stickyClear, BitVec.and_assoc, BitVec.and_comm (~~~_), ← BitVec.and_assoc, hstatus]
    exact BitVec.zero_and
  · exact h
  · obtain ⟨hplaces, hpipeline, ⟨-, hfcfg⟩, hprogress⟩ := h.ctx k
    exact h.writeCtx k ⟨hplaces, hpipeline, ⟨by rw [BitVec.and_assoc]; simp, hfcfg⟩, hprogress⟩
  · obtain ⟨hplaces, hpipeline, ⟨hmcfg, -⟩, hprogress⟩ := h.ctx k
    exact h.writeCtx k ⟨hplaces, hpipeline, ⟨hmcfg, by rw [BitVec.and_assoc]; simp⟩, hprogress⟩
  -- The byte buffers are no part of the invariant.
  all_goals exact h.writeCtx k (h.ctx k)

end

/-! ### The statements -/

theorem State.reset_inv : State.reset.Inv := by
  refine ⟨fun i => ?_, ⟨rfl, by decide⟩, fun u => ?_, fun u => ?_, fun k => ?_⟩
  · rw [reset_readF]; exact SoftFloat.zero_normalized
  · rw [reset_readIir]; exact Iir.reset_consistent
  · rw [reset_readFir]; exact Fir.reset_consistent
  · rw [reset_readCtx]; exact Context.reset_inv

/-- Settles O56: every place is at its reset value, and the scale factors are then `ZERO`. -/
theorem resetMeetsTheInvariant : Obligations.ResetMeetsTheInvariant := by
  refine ⟨State.reset_inv, fun k => ?_⟩
  rw [exec, execCinit, reset_readCtx, calibrate_zero_factor rfl (.inl rfl)]
  rfl

/-- Settles O57: each kind of step writes, place by place, what keeps the invariant there. -/
theorem everyStepKeepsTheInvariant : Obligations.EveryStepKeepsTheInvariant := by
  intro s t h hstep
  rcases step_cases s with ⟨-, hs⟩ | ⟨w, rest, -, hs⟩ | ⟨r, v, rest, -, -, hs⟩ | ⟨r, rest, -, hs⟩ | ⟨rest, -, hs⟩
  · cases hs.symm.trans hstep
    exact h
  · exact State.Inv.issue (s := { s with pending := rest }) h (hs.symm.trans hstep)
  · cases hs.symm.trans hstep
    exact State.Inv.portWrite (s := { s with pending := rest }) h r v
  · cases hs.symm.trans hstep
    exact h
  · cases hs.symm.trans hstep
    exact State.reset_inv

end Sys2Proof.Machine
end

section
/-! The range of an IIR unit (41_filters.md), and the default coefficient layout in bytes (42_calibration.md). -/

namespace Sys2Proof.Machine

/-! ### The range of an IIR unit (R140) -/

@[simp] theorem foldl_iirPush_dp (u : Iir) (vs : List Word) : (vs.foldl iirPush u).dp = u.dp := by
  induction vs generalizing u with
  | nil => rfl
  | cons v vs ih => exact ih (iirPush u v)

/-- Pushes of samples in a range that holds the average keep the unit consistent and its average in the range. -/
theorem Iir.Consistent.foldl_push {u : Iir} (h : u.Consistent) {m M : Int} (ha : m ≤ u.avg.toInt ∧ u.avg.toInt ≤ M)
    {vs : List Word} (hvs : ∀ v ∈ vs, m ≤ v.toInt ∧ v.toInt ≤ M) :
    (vs.foldl iirPush u).Consistent ∧ m ≤ (vs.foldl iirPush u).avg.toInt ∧ (vs.foldl iirPush u).avg.toInt ≤ M := by
  induction vs generalizing u with
  | nil => exact ⟨h, ha⟩
  | cons v vs ih =>
    obtain ⟨hv, hvs⟩ := List.forall_mem_cons.mp hvs
    exact ih (h.push_consistent v) (h.push_avg_bounds ha hv) hvs

/-- Settles O31: the average stays among the samples, and the sum of a consistent unit is less than one window above the
average's share. -/
theorem iirStaysInTheSampleRange : Obligations.IirStaysInTheSampleRange := by
  intro dp init vs m M hinit hvs
  obtain ⟨hcons, hlow, hhigh⟩ := (iirNew_consistent dp init).foldl_push hinit hvs
  obtain ⟨hsumlow, hsumhigh⟩ := hcons.sum_brackets
  rw [foldl_iirPush_dp, iirNew_dp] at hsumlow hsumhigh
  have hpos : (0 : Int) ≤ 2 ^ dp.val := by positivity
  have hleast := mul_le_mul_of_nonneg_right hlow hpos
  have hmost := mul_le_mul_of_nonneg_right (Int.add_le_add_right hhigh 1) hpos
  exact ⟨hlow, hhigh, by omega, by omega⟩

/-! ### A window of the byte buffer (R57, R161) -/

theorem bigEndian_concat (xs : List Byte) (b : Byte) : bigEndian (xs ++ [b]) = bigEndian xs * 256 + b.toNat := by
  simp [bigEndian]

theorem bigEndian_append (xs ys : List Byte) :
    bigEndian (xs ++ ys) = bigEndian xs * 2 ^ (8 * ys.length) + bigEndian ys := by
  induction ys using List.reverseRecOn with
  | nil => simp [bigEndian]
  | append_singleton ys b ih =>
    rw [← List.append_assoc, bigEndian_concat, bigEndian_concat, ih, List.length_append, List.length_singleton,
      mul_add, pow_add]
    ring

theorem bigEndian_lt (xs : List Byte) : bigEndian xs < 2 ^ (8 * xs.length) := by
  induction xs using List.reverseRecOn with
  | nil => exact one_pos
  | append_singleton xs b ih =>
    have hb := b.isLt
    rw [bigEndian_concat, List.length_append, List.length_singleton, mul_add, pow_add]
    omega

theorem bigEndian_pair (x y : Byte) : bigEndian [x, y] = x.toNat * 256 + y.toNat := by
  simp [bigEndian]

theorem bigEndian_triple (x y z : Byte) : bigEndian [x, y, z] = x.toNat * 65536 + y.toNat * 256 + z.toNat := by
  simp only [bigEndian, List.foldl_cons, List.foldl_nil]
  omega

/-- Bits that lie inside `mid` are read from it alone: what stands before is above them, what stands after below. -/
theorem bigEndian_bits (pre mid post : List Byte) {s w : Nat} (h : s + w ≤ 8 * mid.length) :
    bigEndian (pre ++ mid ++ post) / 2 ^ (8 * post.length + s) % 2 ^ w = bigEndian mid / 2 ^ s % 2 ^ w := by
  obtain ⟨j, hj⟩ := Nat.exists_eq_add_of_le h
  have hpost := Nat.two_pow_pos (8 * post.length)
  rw [pow_add, ← Nat.div_div_eq_div_mul, bigEndian_append, mul_comm, Nat.mul_add_div hpost,
    Nat.div_eq_of_lt (bigEndian_lt post), add_zero, bigEndian_append, hj, pow_add, pow_add,
    show bigEndian pre * (2 ^ s * 2 ^ w * 2 ^ j) = 2 ^ s * (2 ^ w * (bigEndian pre * 2 ^ j)) by ring,
    Nat.mul_add_div (Nat.two_pow_pos s), Nat.mul_add_mod]

/-- A field of the layout is read from the bytes that hold it (R161). -/
theorem rawField_eq_window (b : Vector Byte 18) (p : CoefField) {first n : Nat} (hfirst : 8 * first ≤ p.off)
    (hlast : p.off + p.width ≤ 8 * (first + n)) (hn : first + n ≤ 18) :
    rawField b p =
      bigEndian ((b.toList.drop first).take n) / 2 ^ (8 * (first + n) - (p.off + p.width)) % 2 ^ p.width := by
  have hsplit : b.toList = b.toList.take first ++ (b.toList.drop first).take n ++ b.toList.drop (first + n) := by
    rw [← List.take_add, List.take_append_drop]
  have hpost : (b.toList.drop (first + n)).length = 18 - (first + n) := by simp
  have hmid : ((b.toList.drop first).take n).length = n := by simp; omega
  have hbits := bigEndian_bits (b.toList.take first) ((b.toList.drop first).take n) (b.toList.drop (first + n))
    (s := 8 * (first + n) - (p.off + p.width)) (w := p.width) (by omega)
  rw [← hsplit, hpost] at hbits
  rw [rawField, Config.coefBits, ← hbits]
  congr 3
  omega

theorem window_two (b : Vector Byte 18) {i : Nat} (h : i + 1 < 18) :
    (b.toList.drop i).take 2 = [b[i], b[i + 1]] := by
  rw [List.drop_eq_getElem_cons (by simp; omega), List.drop_eq_getElem_cons (by simp; omega)]
  simp

theorem window_three (b : Vector Byte 18) {i : Nat} (h : i + 2 < 18) :
    (b.toList.drop i).take 3 = [b[i], b[i + 1], b[i + 2]] := by
  rw [List.drop_eq_getElem_cons (by simp; omega), List.drop_eq_getElem_cons (by simp; omega),
    List.drop_eq_getElem_cons (by simp; omega)]
  simp

/-! ### The default layout in bytes (R161) -/

theorem coefValue_eq_signedValue (b : Vector Byte 18) {p : CoefField} (hw : 1 ≤ p.width ∧ p.width ≤ 32) :
    coefValue b p = signedValue (rawField b p) p.width :=
  sextField_eq_signedValue hw (Nat.mod_lt _ (Nat.two_pow_pos _))

section
variable (b : Vector Byte 18) {p : CoefField} (hw : 1 ≤ p.width ∧ p.width ≤ 32) (i : Nat) (hfirst : 8 * i ≤ p.off)
include hw hfirst

/-- A field inside two bytes. -/
theorem coefValue_of_pair (h : i + 1 < 18) (hlast : p.off + p.width ≤ 8 * (i + 2)) :
    coefValue b p = signedValue
      ((b[i].toNat * 256 + b[i + 1].toNat) / 2 ^ (8 * (i + 2) - (p.off + p.width)) % 2 ^ p.width) p.width := by
  rw [coefValue_eq_signedValue b hw, rawField_eq_window b p hfirst hlast h, window_two b h, bigEndian_pair]

/-- A field inside three bytes. -/
theorem coefValue_of_triple (h : i + 2 < 18) (hlast : p.off + p.width ≤ 8 * (i + 3)) :
    coefValue b p = signedValue
      ((b[i].toNat * 65536 + b[i + 1].toNat * 256 + b[i + 2].toNat) / 2 ^ (8 * (i + 3) - (p.off + p.width)) %
        2 ^ p.width) p.width := by
  rw [coefValue_eq_signedValue b hw, rawField_eq_window b p hfirst hlast h, window_three b h, bigEndian_triple]

end

/-- Settles O34: a field of 12 or 16 bits lies inside two bytes and one of 20 bits inside three, so its bits are read
from those. -/
theorem coefficientsInByteTerms : Obligations.CoefficientsInByteTerms := by
  intro b
  have hlt (i : Nat) (hi : i < 18) : b[i].toNat < 256 := b[i].isLt
  -- The fields in order, each with the first byte that holds it; what is left is to drop the other bits of the bytes.
  refine ⟨(coefValue_of_pair b (p := ⟨0, 12⟩) (by decide) 0 (by decide) (by decide) (by decide)).trans
      (congrArg (signedValue · 12) ?_),
    (coefValue_of_pair b (p := ⟨12, 12⟩) (by decide) 1 (by decide) (by decide) (by decide)).trans
      (congrArg (signedValue · 12) ?_),
    (coefValue_of_triple b (p := ⟨24, 20⟩) (by decide) 3 (by decide) (by decide) (by decide)).trans
      (congrArg (signedValue · 20) ?_),
    (coefValue_of_triple b (p := ⟨44, 20⟩) (by decide) 5 (by decide) (by decide) (by decide)).trans
      (congrArg (signedValue · 20) ?_),
    (coefValue_of_pair b (p := ⟨64, 16⟩) (by decide) 8 (by decide) (by decide) (by decide)).trans
      (congrArg (signedValue · 16) ?_),
    (coefValue_of_pair b (p := ⟨80, 16⟩) (by decide) 10 (by decide) (by decide) (by decide)).trans
      (congrArg (signedValue · 16) ?_),
    (coefValue_of_pair b (p := ⟨96, 16⟩) (by decide) 12 (by decide) (by decide) (by decide)).trans
      (congrArg (signedValue · 16) ?_),
    (coefValue_of_pair b (p := ⟨112, 16⟩) (by decide) 14 (by decide) (by decide) (by decide)).trans
      (congrArg (signedValue · 16) ?_),
    (coefValue_of_pair b (p := ⟨128, 16⟩) (by decide) 16 (by decide) (by decide) (by decide)).trans
      (congrArg (signedValue · 16) ?_)⟩
  all_goals
    simp only [Nat.reduceAdd, Nat.reduceMul, Nat.reduceSub, Nat.reducePow]
    grind

end Sys2Proof.Machine
end

section
/-! PFEED by the branches of its rule, and equal pressures (44_pipeline.md). -/

namespace Sys2Proof.Machine

/-! ### The integer that stands for a sample (R193, R194) -/

/-- The shift toward zero makes no magnitude larger, so its result is stored exactly. -/
theorem int32_shrTz_toInt (v : Word) (n : Nat) : (int32 (shrTz v.toInt n)).toInt = v.toInt.tdiv (2 ^ n) := by
  have hv := word_toInt_range v
  have hle := Nat.div_le_self v.toInt.natAbs (2 ^ n)
  have hfit : -2147483648 ≤ shrTz v.toInt n ∧ shrTz v.toInt n ≤ 2147483647 := by
    rw [shrTz]
    generalize v.toInt.natAbs / 2 ^ n = m at hle ⊢
    rcases sgn_cases v.toInt with ⟨hs, hsign⟩ | ⟨hs, hsign⟩ <;> rw [hs] <;> omega
  rw [int32_toInt _ hfit, shrTz_eq_tdiv, pow2_eq]

section
variable {v : SoftFloat} {fexp : Int}

theorem pipeSample_of_zero (h : v.mant = 0) : pipeSample v fexp = .ok 0 :=
  if_pos ((toInt_eq_zero_iff _).mpr h)

theorem pipeSample_of_exp_le (h : v.mant ≠ 0) (hexp : v.exp.toInt ≤ fexp) :
    pipeSample v fexp = .ok (int32 (shrTz v.mant.toInt (min (fexp - v.exp.toInt) 31).toNat)) := by
  rw [pipeSample, if_neg (mt (toInt_eq_zero_iff _).mp h), if_neg hexp.not_gt]

theorem pipeSample_of_lt_exp (h : v.mant ≠ 0) (hexp : fexp < v.exp.toInt) :
    pipeSample v fexp = .error .pipelineRange := by
  rw [pipeSample, if_neg (mt (toInt_eq_zero_iff _).mp h), if_pos hexp]

/-- A sample at or below the scale has its integer: 0 for `ZERO`, otherwise the shifted mantissa (R193). -/
theorem exists_pipeSample (h : v.mant = 0 ∨ v.exp.toInt ≤ fexp) : ∃ x, pipeSample v fexp = .ok x ∧
    (v.mant = 0 → x = 0) ∧
    (v.mant ≠ 0 → x.toInt = v.mant.toInt.tdiv (2 ^ (min (fexp - v.exp.toInt) 31).toNat)) := by
  by_cases hm : v.mant = 0
  · exact ⟨0, pipeSample_of_zero hm, fun _ => rfl, fun hne => absurd hm hne⟩
  · exact ⟨_, pipeSample_of_exp_le hm (h.resolve_left hm), fun hz => absurd hz hm, fun _ => int32_shrTz_toInt _ _⟩

end

/-! ### The branches of PFEED (R192, R232) -/

section
variable {c : Context}

theorem feed_without_sample (h : c.compvalid = false) : feed c = .error .noSample := by
  rw [feed, h]; rfl

theorem feed_unprimed (valid : c.compvalid = true) (unprimed : c.primed = false) : feed c = prime c := by
  rw [feed, valid, unprimed]; rfl

theorem feed_primed (valid : c.compvalid = true) (primed : c.primed = true) : feed c = feedPrimed c := by
  rw [feed, valid, primed]; rfl

/-- Either depth above 5 is refused before the exponent is looked at (R192). -/
theorem prime_of_depth (h : 5 < sdp c.fcfg ∨ 5 < ddp c.fcfg) : prime c = .error .filterConfig := by
  rcases Nat.lt_or_ge 5 (sdp c.fcfg) with hs | hs
  · rw [prime, firDepth_error hs]; rfl
  · have hshal := (firDepth_eq_ok_iff (sdp c.fcfg) ⟨sdp c.fcfg, Nat.lt_succ_of_le hs⟩).mpr rfl
    rw [prime, hshal, firDepth_error (h.resolve_left hs.not_gt)]; rfl

section
variable (hs : sdp c.fcfg ≤ 5) (hd : ddp c.fcfg ≤ 5)
include hs hd

/-- Past the depth checks a priming PFEED checks the exponent, then makes both filters new (R192). -/
theorem prime_of_depths : prime c = do
    require (decide (c.pcomp.exp.toInt + (fhead c.fcfg : Int) ≤ 2147483647)) .exponentRange
    return { c with
      fexp := int32 (c.pcomp.exp.toInt + (fhead c.fcfg : Int))
      shal := firNew c.shal ⟨sdp c.fcfg, Nat.lt_succ_of_le hs⟩ (int32 (shrTz c.pcomp.mant.toInt (fhead c.fcfg)))
      deep := firNew c.deep ⟨ddp c.fcfg, Nat.lt_succ_of_le hd⟩ (int32 (shrTz c.pcomp.mant.toInt (fhead c.fcfg)))
      primed := true } := by
  have hshal := (firDepth_eq_ok_iff (sdp c.fcfg) ⟨sdp c.fcfg, Nat.lt_succ_of_le hs⟩).mpr rfl
  have hdeep := (firDepth_eq_ok_iff (ddp c.fcfg) ⟨ddp c.fcfg, Nat.lt_succ_of_le hd⟩).mpr rfl
  rw [prime, hshal, hdeep]
  rfl

theorem prime_of_exponent (h : 2147483647 < c.pcomp.exp.toInt + (fhead c.fcfg : Int)) :
    prime c = .error .exponentRange := by
  rw [prime_of_depths hs hd, decide_eq_false h.not_ge]; rfl

/-- A priming PFEED past its checks gives the pipeline its scale and its two new filters (R191, R192). -/
theorem exists_prime (h : c.pcomp.exp.toInt + (fhead c.fcfg : Int) ≤ 2147483647) :
    ∃ (fexp x : Word) (shal deep : Fir),
      fexp.toInt = c.pcomp.exp.toInt + (fhead c.fcfg : Int) ∧
      x.toInt = c.pcomp.mant.toInt.tdiv (2 ^ fhead c.fcfg) ∧
      shal.IsNew c.shal (sdp c.fcfg) x ∧ deep.IsNew c.deep (ddp c.fcfg) x ∧
      prime c = .ok { c with fexp := fexp, shal := shal, deep := deep, primed := true } := by
  have hexp := word_toInt_range c.pcomp.exp
  refine ⟨int32 _, int32 _, firNew _ ⟨sdp c.fcfg, Nat.lt_succ_of_le hs⟩ _,
    firNew _ ⟨ddp c.fcfg, Nat.lt_succ_of_le hd⟩ _, int32_toInt _ (by omega), int32_shrTz_toInt _ _,
    firNew_isNew _ _ _, firNew_isNew _ _ _, ?_⟩
  rw [prime_of_depths hs hd, decide_eq_true h]; rfl

end

theorem feedPrimed_of_sample {x : Word} (h : pipeSample c.pcomp c.fexp.toInt = .ok x) :
    feedPrimed c = .ok { c with shal := firPush c.shal x, deep := firPush c.deep x } := by
  rw [feedPrimed, h]; rfl

theorem feedPrimed_of_fault {cause : Cause} (h : pipeSample c.pcomp c.fexp.toInt = .error cause) :
    feedPrimed c = .error cause := by
  rw [feedPrimed, h]; rfl

end

section
variable {k : CtxId} {s : State}

theorem exec_pfeed_ok {c : Context} (h : feed (s.readCtx k) = .ok c) :
    exec (.pfeed k) s = .next { s with ctx := s.ctx.set k.val c, response := some .ok } := by
  rw [exec, execPfeed, h]; rfl

theorem exec_pfeed_error {cause : Cause} (h : feed (s.readCtx k) = .error cause) :
    exec (.pfeed k) s = .next (s.raise cause (encode (.pfeed k))) := by
  rw [exec, execPfeed, h]; rfl

end

/-! ### Equal pressures (R202) -/

/-- Where the common value has a SoftFloat, the difference of two equal values is `ZERO` (R106, R202). -/
theorem isPressureDifference_zero {total static : Context} {q : SoftFloat}
    (hq : IsPipeValue total.deep total.fexp q)
    (heq : (total.deep.avg.toInt : ℚ) * 2 ^ total.fexp.toInt = (static.deep.avg.toInt : ℚ) * 2 ^ static.fexp.toInt) :
    IsPressureDifference SoftFloat.zero total static := by
  obtain ⟨hnorm, hval⟩ := hq
  refine ⟨q, q, hnorm, hnorm, hval, hval.trans heq, ?_⟩
  have hzero := SoftFloat.zero_normalized.isTrunc31
  rwa [SoftFloat.val_of_mant_eq_zero rfl, ← alignedSum_neg hnorm] at hzero

/-! ### The statements -/

/-- Settles O41: past the checks of a priming PFEED both filters are new at the shifted mantissa. -/
theorem pfeedPrimesThePipeline : Obligations.PfeedPrimesThePipeline := by
  refine ⟨fun _ => rfl, fun k s valid unprimed hs hd hexp => ?_⟩
  obtain ⟨fexp, x, shal, deep, hfexp, hx, hshal, hdeep, hprime⟩ := exists_prime hs hd hexp
  exact ⟨fexp, x, shal, deep, hfexp, hx, hshal, hdeep, exec_pfeed_ok ((feed_unprimed valid unprimed).trans hprime)⟩

/-- Settles O42: both filters take the one integer that stands for the sample at the scale. -/
theorem pfeedPushesBothFilters : Obligations.PfeedPushesBothFilters := by
  intro k s valid primed hshal hdeep hsample
  obtain ⟨x, hx, hzero, hshift⟩ := exists_pipeSample hsample
  exact ⟨x, _, _, hzero, hshift, hshal.push x, hdeep.push x,
    exec_pfeed_ok ((feed_primed valid primed).trans (feedPrimed_of_sample hx))⟩

/-- Settles O43: each check of PFEED is reached only past the ones before it. -/
theorem pfeedFaultsInOrder : Obligations.PfeedFaultsInOrder := by
  intro k s
  refine ⟨fun hvalid => ?_, fun valid unprimed hdepth => ?_, fun valid unprimed hs hd hexp => ?_,
    fun valid primed hm hexp => ?_⟩
  · exact exec_pfeed_error (feed_without_sample hvalid)
  · exact exec_pfeed_error ((feed_unprimed valid unprimed).trans (prime_of_depth hdepth))
  · exact exec_pfeed_error ((feed_unprimed valid unprimed).trans (prime_of_exponent hs hd hexp))
  · exact exec_pfeed_error ((feed_primed valid primed).trans (feedPrimed_of_fault (pipeSample_of_lt_exp hm hexp)))

/-- Settles O47: two filters of one value are rebuilt as one SoftFloat, which subtracted from itself is `ZERO`. -/
theorem equalPressuresGiveZero : Obligations.EqualPressuresGiveZero := by
  intro fd kt ks s htotal hstatic heq
  have hdiff := pressureDifference_answers htotal hstatic
  constructor
  · rintro ⟨q, hq⟩
    exact hdiff.finish_ok (isPressureDifference_zero hq heq)
  · intro hlow hhigh
    obtain ⟨q, hq⟩ := exists_isPipeValue hlow hhigh
    exact hdiff.finish_ok (isPressureDifference_zero hq heq)

end Sys2Proof.Machine
end

section
/-! What a port write shows where it was written, and what it leaves (20_memory.md). -/

namespace Sys2Proof.Machine

theorem portWrite_of_portMap {r : Nat} {reg : PortReg} (h : portMap r = some reg) (s : State) (v : Word) :
    s.portWrite r v = s.storeReg reg v := by
  rw [State.portWrite, h]

theorem portRead_of_portMap {r : Nat} {reg : PortReg} (h : portMap r = some reg) (s : State) :
    s.portRead r = s.regValue reg := by
  rw [State.portRead, h]

/-! ### What a port write leaves (R52, R55) -/

section
variable (s : State) (reg : PortReg) (v : Word)

@[simp] theorem storeReg_f : (s.storeReg reg v).f = s.f := by cases reg <;> rfl
@[simp] theorem storeReg_fcause : (s.storeReg reg v).fcause = s.fcause := by cases reg <;> rfl
@[simp] theorem storeReg_fcmd : (s.storeReg reg v).fcmd = s.fcmd := by cases reg <;> rfl
@[simp] theorem storeReg_errcnt : (s.storeReg reg v).errcnt = s.errcnt := by cases reg <;> rfl
@[simp] theorem storeReg_iir : (s.storeReg reg v).iir = s.iir := by cases reg <;> rfl
@[simp] theorem storeReg_fir : (s.storeReg reg v).fir = s.fir := by cases reg <;> rfl

/-- Of a context a port write changes the control words and the byte buffers alone (R53). -/
theorem storeReg_readCtx (k : CtxId) : ∃ mcfg fcfg coef rawt rawp, (s.storeReg reg v).readCtx k =
    { s.readCtx k with mcfg := mcfg, fcfg := fcfg, coef := coef, rawt := rawt, rawp := rawp } := by
  have h := portWrite_readCtx s reg.number v k
  rw [portWrite_of_portMap (portMap_number reg)] at h
  generalize (s.storeReg reg v).readCtx k = c at h ⊢
  rcases h with hkeep | hstore
  · exact ⟨_, _, _, _, _, hkeep⟩
  · cases hstore <;> exact ⟨_, _, _, _, _, rfl⟩

/-- The registers with no write of their own read as before (R55). -/
theorem regValue_storeReg_readOnly {reg' : PortReg} (h : reg'.access = .ro) :
    (s.storeReg reg v).regValue reg' = s.regValue reg' := by
  have hctx := storeReg_readCtx s reg v
  cases reg'
  case cmd | status | x | mcfg | fcfg | coef | rawt | rawp => cases h
  case fcause | fcmd | errcnt => simp [State.regValue]
  case iir => simp [State.regValue, State.readIir]
  case mant p | exp p =>
    cases p with
    | f i => simp [State.regValue, State.place, State.readF]
    | kt k | kp k | tcomp k | pcomp k | c k _ =>
      obtain ⟨_, _, _, _, _, hk⟩ := hctx k
      simp [State.regValue, State.place, hk]
  case fir u _ | slot u _ =>
    cases u with
    | alone u => simp [State.regValue, State.firUnit, State.readFir]
    | shallow k | deep k =>
      obtain ⟨_, _, _, _, _, hk⟩ := hctx k
      simp [State.regValue, State.firUnit, hk]
  case pstat k | fexp k | craw k _ =>
    obtain ⟨_, _, _, _, _, hk⟩ := hctx k
    simp [State.regValue, hk]

/-- A field of the contexts that a write of one context keeps there. -/
theorem State.readCtx_writeCtx_field {α : Type} (field : Context → α) {k : CtxId} {c : Context} (j : CtxId)
    (h : k = j → field c = field (s.readCtx k)) : field ((s.writeCtx k c).readCtx j) = field (s.readCtx j) := by
  rw [State.readCtx_writeCtx]
  split
  · next hk => rw [h hk, hk]
  · rfl

variable {s reg v}

theorem readX_storeReg_other {i : XReg} (h : .x i ≠ reg) : (s.storeReg reg v).readX i = s.readX i := by
  cases reg
  case x j => exact s.readX_writeX_other j i v fun hj => h (hj ▸ rfl)
  all_goals rfl

theorem mcfg_storeReg_other {j : CtxId} (h : .mcfg j ≠ reg) :
    ((s.storeReg reg v).readCtx j).mcfg = (s.readCtx j).mcfg := by
  cases reg
  case mcfg k => exact s.readCtx_writeCtx_field Context.mcfg j fun hk => absurd (hk ▸ rfl) h
  case fcfg | coef | rawt | rawp => exact s.readCtx_writeCtx_field Context.mcfg j fun _ => rfl
  all_goals rfl

theorem fcfg_storeReg_other {j : CtxId} (h : .fcfg j ≠ reg) :
    ((s.storeReg reg v).readCtx j).fcfg = (s.readCtx j).fcfg := by
  cases reg
  case fcfg k => exact s.readCtx_writeCtx_field Context.fcfg j fun hk => absurd (hk ▸ rfl) h
  case mcfg | coef | rawt | rawp => exact s.readCtx_writeCtx_field Context.fcfg j fun _ => rfl
  all_goals rfl

theorem coef_storeReg_other {j : CtxId} {i : Fin 18} (h : .coef j i ≠ reg) :
    ((s.storeReg reg v).readCtx j).coef[i.val] = (s.readCtx j).coef[i.val] := by
  cases reg
  case coef k i' =>
    refine s.readCtx_writeCtx_field (·.coef[i.val]) j fun hk => Vector.getElem_set_ne i'.isLt _ fun hi => h ?_
    rw [hk, Fin.ext hi]
  case mcfg | fcfg | rawt | rawp => exact s.readCtx_writeCtx_field (·.coef[i.val]) j fun _ => rfl
  all_goals rfl

theorem rawt_storeReg_other {j : CtxId} {i : Fin 3} (h : .rawt j i ≠ reg) :
    ((s.storeReg reg v).readCtx j).rawt[i.val] = (s.readCtx j).rawt[i.val] := by
  cases reg
  case rawt k i' =>
    refine s.readCtx_writeCtx_field (·.rawt[i.val]) j fun hk => Vector.getElem_set_ne i'.isLt _ fun hi => h ?_
    rw [hk, Fin.ext hi]
  case mcfg | fcfg | coef | rawp => exact s.readCtx_writeCtx_field (·.rawt[i.val]) j fun _ => rfl
  all_goals rfl

theorem rawp_storeReg_other {j : CtxId} {i : Fin 3} (h : .rawp j i ≠ reg) :
    ((s.storeReg reg v).readCtx j).rawp[i.val] = (s.readCtx j).rawp[i.val] := by
  cases reg
  case rawp k i' =>
    refine s.readCtx_writeCtx_field (·.rawp[i.val]) j fun hk => Vector.getElem_set_ne i'.isLt _ fun hi => h ?_
    rw [hk, Fin.ext hi]
  case mcfg | fcfg | coef | rawt => exact s.readCtx_writeCtx_field (·.rawp[i.val]) j fun _ => rfl
  all_goals rfl

/-- A port write leaves every other register as it read (R52). -/
theorem regValue_storeReg_other {reg' : PortReg} (h : reg' ≠ reg) :
    (s.storeReg reg v).regValue reg' = s.regValue reg' := by
  cases reg'
  case cmd => rfl
  case status => exact storeReg_status s h.symm v
  case x => exact readX_storeReg_other h
  case mcfg => exact mcfg_storeReg_other h
  case fcfg => exact fcfg_storeReg_other h
  case coef => exact congrArg zextByte (coef_storeReg_other h)
  case rawt => exact congrArg zextByte (rawt_storeReg_other h)
  case rawp => exact congrArg zextByte (rawp_storeReg_other h)
  all_goals exact regValue_storeReg_readOnly s reg v rfl

end

theorem portRead_portWrite_other (s : State) {r r' : Nat} (h : r' ≠ r) (v : Word) :
    (s.portWrite r v).portRead r' = s.portRead r' := by
  cases hmap : portMap r with
  | none => rw [portWrite_unmapped s r v hmap]
  | some reg =>
    rw [portWrite_of_portMap hmap]
    cases hmap' : portMap r' with
    | none => rw [portRead_unmapped _ _ hmap', portRead_unmapped _ _ hmap']
    | some reg' =>
      have hne : reg' ≠ reg := fun heq => h (by rw [← number_of_portMap hmap, ← number_of_portMap hmap', heq])
      rw [portRead_of_portMap hmap', portRead_of_portMap hmap', regValue_storeReg_other hne]

/-! ### What a port write shows (R52, R56) -/

theorem portRead_portWrite_same {r : Nat} {reg : PortReg} (h : portMap r = some reg) (s : State) (v : Word) :
    (s.portWrite r v).portRead r = (s.storeReg reg v).regValue reg := by
  rw [portWrite_of_portMap h, portRead_of_portMap h]

theorem portRead_portWrite_x (s : State) {r : Nat} (h : 0x008 ≤ r ∧ r < 0x010) (v : Word) :
    (s.portWrite r v).portRead r = v := by
  obtain ⟨i, rfl⟩ := Nat.exists_eq_add_of_le h.1
  exact (portRead_portWrite_same (portMap_number (.x ⟨i, by omega⟩)) s v).trans (s.readX_writeX_same _ v)

theorem portRead_portWrite_mcfg (s : State) (k : CtxId) (v : Word) :
    (s.portWrite (ctxBase k) v).portRead (ctxBase k) = v &&& 0x77#32 := by
  refine (portRead_portWrite_same (portMap_number (.mcfg k)) s v).trans ?_
  rw [State.storeReg, State.regValue, State.readCtx_writeCtx_same]
  rfl

theorem portRead_portWrite_fcfg (s : State) (k : CtxId) (v : Word) :
    (s.portWrite (ctxBase k + 1) v).portRead (ctxBase k + 1) = v &&& 0xF1F1F#32 := by
  refine (portRead_portWrite_same (portMap_number (.fcfg k)) s v).trans ?_
  rw [State.storeReg, State.regValue, State.readCtx_writeCtx_same]
  rfl

theorem zextByte_lowByte (v : Word) : zextByte (lowByte v) = v &&& 0xFF#32 := by
  apply BitVec.eq_of_toNat_eq
  have hlow : (zextByte (lowByte v)).toNat = v.toNat % 2 ^ 8 := by
    simp only [zextByte, lowByte, BitVec.toNat_setWidth]
    omega
  rw [hlow, BitVec.toNat_and]
  exact (Nat.and_two_pow_sub_one_eq_mod v.toNat 8).symm

/-- A byte register shows the low 8 bits of what was written (R56). -/
theorem ShowsByte.portRead_portWrite {k : CtxId} {idx r : Nat} {reg : PortReg} (h : ShowsByte k idx reg)
    (hmap : portMap r = some reg) (s : State) (v : Word) : (s.portWrite r v).portRead r = v &&& 0xFF#32 := by
  rw [portRead_portWrite_same hmap, h.store, h.value, zextByte_lowByte]

/-- The byte registers of both contexts, by the index that LDB has for them (R53, R214). -/
theorem exists_byte_index {r : Nat} (h : 0x110 ≤ r ∧ r < 0x122 ∨ 0x124 ≤ r ∧ r < 0x127 ∨ 0x128 ≤ r ∧ r < 0x12B ∨
    0x210 ≤ r ∧ r < 0x222 ∨ 0x224 ≤ r ∧ r < 0x227 ∨ 0x228 ≤ r ∧ r < 0x22B) :
    ∃ (k : CtxId) (idx : Nat), idx ≤ 17 ∧ r = 0x110 + 0x100 * k.val + idx ∨
      18 ≤ idx ∧ idx ≤ 20 ∧ r = 0x124 + 0x100 * k.val + (idx - 18) ∨
      21 ≤ idx ∧ idx ≤ 23 ∧ r = 0x128 + 0x100 * k.val + (idx - 21) := by
  rcases h with h | h | h | h | h | h
  · exact ⟨0, r - 0x110, by simp; omega⟩
  · exact ⟨0, r - 0x124 + 18, by simp; omega⟩
  · exact ⟨0, r - 0x128 + 21, by simp; omega⟩
  · exact ⟨1, r - 0x210, by simp; omega⟩
  · exact ⟨1, r - 0x224 + 18, by simp; omega⟩
  · exact ⟨1, r - 0x228 + 21, by simp; omega⟩

/-! ### `STATUS` (R26) -/

theorem portWrite_one (s : State) (v : Word) : s.portWrite 1 v = { s with status := stickyClear s.status v } := rfl

theorem portRead_one (s : State) : s.portRead 1 = s.status := rfl

theorem statusMask_getLsbD : ∀ n < 32, statusMask.getLsbD n = decide (1 ≤ n ∧ n ≤ 10) := by decide

theorem stickyClear_getLsbD (status v : Word) (n : Nat) : (stickyClear status v).getLsbD n =
    (status.getLsbD n && !(v.getLsbD n && decide (1 ≤ n ∧ n ≤ 10))) := by
  by_cases hn : n < 32
  · rw [stickyClear, BitVec.getLsbD_and, BitVec.getLsbD_not, BitVec.getLsbD_and, statusMask_getLsbD n hn,
      decide_eq_true hn, Bool.true_and]
  · rw [BitVec.getLsbD_of_ge _ n (not_lt.mp hn), BitVec.getLsbD_of_ge status n (not_lt.mp hn), Bool.false_and]

/-- The reserved bits of a legal record are 0 (R26). -/
theorem status_getLsbD_reserved {status : Word} (h : status &&& ~~~statusMask = 0) {n : Nat} (hn : n = 0 ∨ 11 ≤ n) :
    status.getLsbD n = false := by
  by_cases hlt : n < 32
  · have hbit : (status &&& ~~~statusMask).getLsbD n = false := by rw [h]; exact BitVec.getLsbD_zero
    have hreserved : ¬(1 ≤ n ∧ n ≤ 10) := by omega
    rwa [BitVec.getLsbD_and, BitVec.getLsbD_not, statusMask_getLsbD n hlt, decide_eq_true hlt,
      decide_eq_false hreserved, Bool.not_false, Bool.true_and, Bool.and_true] at hbit
  · exact BitVec.getLsbD_of_ge _ n (not_lt.mp hlt)

/-! ### The statements -/

/-- Settles O51: the register map is one to one, so another number names another register, which the write leaves. -/
theorem portWritesShowWhereWritten : Obligations.PortWritesShowWhereWritten := by
  intro s r v _
  refine ⟨fun r' h => portRead_portWrite_other s h v, portWrite_unmapped s r v, fun _ => portWrite_readOnly s r v,
    fun h => portRead_portWrite_x s h v, ?mcfg, ?fcfg, fun h => ?bytes⟩
  case mcfg =>
    rintro (rfl | rfl)
    · exact portRead_portWrite_mcfg s 0 v
    · exact portRead_portWrite_mcfg s 1 v
  case fcfg =>
    rintro (rfl | rfl)
    · exact portRead_portWrite_fcfg s 0 v
    · exact portRead_portWrite_fcfg s 1 v
  case bytes =>
    obtain ⟨k, idx, hr⟩ := exists_byte_index h
    obtain ⟨reg, hmap, hshows⟩ := exists_byteReg k hr
    exact hshows.portRead_portWrite hmap s v

/-- Settles O52: the write masks its word to the flag bits and clears those of it. -/
theorem statusIsWriteOneToClear : Obligations.StatusIsWriteOneToClear := by
  intro s v
  simp only [portWrite_one, portRead_one]
  refine ⟨stickyClear_getLsbD s.status v, trivial, fun ⟨hreserved, _⟩ n hn => ?_⟩
  have hread := status_getLsbD_reserved hreserved hn
  rw [stickyClear_getLsbD, hread, Bool.false_and]
  exact ⟨rfl, rfl⟩

end Sys2Proof.Machine
end

section
/-! The host float boundary (45_system.md): a finite binary32 keeps all its bits on the way to a SoftFloat and back. -/

namespace Sys2Proof.Machine

/-! ### The parts of a binary32 (R221) -/

/-- Bit 31 of a binary32, as it stands in the pattern. -/
def f32SignBit (x : Word) : Nat := if x.toNat / 2 ^ 31 = 0 then 0 else 2 ^ 31

theorem toNat_eq_f32_parts (x : Word) : x.toNat = f32SignBit x + (f32Exponent x * 2 ^ 23 + f32Fraction x) := by
  have hx := x.isLt
  unfold f32SignBit f32Exponent f32Fraction
  split <;> omega

theorem f32Fraction_lt (x : Word) : f32Fraction x < 2 ^ 23 := Nat.mod_lt _ (by decide)

theorem f32Significand_lt (x : Word) : f32Significand x < 2 ^ 24 := by
  have h := f32Fraction_lt x
  unfold f32Significand
  split <;> omega

theorem f32Scale_bounds {x : Word} (h : f32Exponent x < 255) : -149 ≤ f32Scale x ∧ f32Scale x ≤ 104 := by
  unfold f32Scale
  split <;> omega

theorem f32Sign_cases (x : Word) :
    f32Sign x = 1 ∧ f32SignBit x = 0 ∨ f32Sign x = -1 ∧ f32SignBit x = 2 ^ 31 := by
  unfold f32Sign f32SignBit
  split
  · exact .inl ⟨rfl, rfl⟩
  · exact .inr ⟨rfl, rfl⟩

/-- Only the two zeros have no significand (R221). -/
theorem f32Significand_eq_zero_iff (x : Word) : f32Significand x = 0 ↔ x = 0 ∨ x = 0x80000000#32 := by
  constructor
  · intro h
    have hparts := toNat_eq_f32_parts x
    unfold f32Significand at h
    split at h
    case isTrue hexp =>
      rw [hexp, h] at hparts
      rcases f32Sign_cases x with ⟨-, hbit⟩ | ⟨-, hbit⟩
      · exact .inl (BitVec.eq_of_toNat_eq (by rw [hparts, hbit]; rfl))
      · exact .inr (BitVec.eq_of_toNat_eq (by rw [hparts, hbit]; rfl))
    case isFalse => omega
  · rintro (rfl | rfl) <;> rfl

/-! ### Back to a pattern (R222) -/

/-- Scaling down a magnitude whose low bits are 0 loses nothing, under either rounding. -/
theorem roundDown_exact (mode : F32Round) (n s : Nat) : roundDown mode (n * 2 ^ s) s = n := by
  have hpos := Nat.two_pow_pos s
  have hwhole : n * 2 ^ s / 2 ^ s = n := Nat.mul_div_cancel n hpos
  have hrest : n * 2 ^ s % 2 ^ s = 0 := Nat.mul_mod_left n (2 ^ s)
  cases mode
  case towardZero => exact hwhole
  case nearestEven =>
    rw [roundDown, hwhole, hrest]
    exact if_neg (by omega)

/-- A 31-bit magnitude whose unit in binary32 is `s` bits above its own, those bits 0, has the pattern of that many
units under the exponent of its leading bit. -/
theorem f32Magnitude_exact (mode : F32Round) {n s : Nat} {e : Int} (hmsb : msbIndex (n * 2 ^ s) = 30)
    (htop : e + 30 ≤ 127) (hs : 0 < s ∧ s ≤ 64) (hunit : max (e + 30) (-126) - 23 = e + s)
    (hfit : (max (e + 30) (-126) + 126).toNat * 2 ^ 23 + n < 0x7F800000) :
    f32Magnitude mode (n * 2 ^ s) e = (max (e + 30) (-126) + 126).toNat * 2 ^ 23 + n := by
  have hshift : min (e + s - e).toNat 64 = s := by omega
  have hbelow : ¬e + (s : Int) ≤ e := by omega
  simp only [f32Magnitude, hmsb, Nat.cast_ofNat, hunit, if_neg htop.not_gt, if_neg hbelow, hshift, roundDown_exact,
    if_pos hfit]

theorem msbIndex_alignMagnitude {n : Nat} (h : n ≠ 0) : msbIndex (alignMagnitude n (msbIndex n)) = 30 := by
  obtain ⟨low, high⟩ := alignMagnitude_bounds n h
  exact (msbIndex_eq_iff _ _ (by omega)).mpr ⟨low, by omega⟩

/-- The normalized significand at its scale has the pattern it was read from, sign apart. -/
theorem f32Magnitude_significand (mode : F32Round) {x : Word} (hfin : f32Exponent x < 255)
    (hsig : f32Significand x ≠ 0) :
    f32Magnitude mode (alignMagnitude (f32Significand x) (msbIndex (f32Significand x)))
      (f32Scale x + msbIndex (f32Significand x) - 30) = f32Exponent x * 2 ^ 23 + f32Fraction x := by
  have hmsb := msbIndex_alignMagnitude hsig
  have hfrac := f32Fraction_lt x
  obtain ⟨low, high⟩ := msbIndex_bounds _ hsig
  have hi : msbIndex (f32Significand x) < 24 := (Nat.log2_lt hsig).mpr (f32Significand_lt x)
  rw [alignMagnitude, if_pos (by omega)] at hmsb ⊢
  by_cases hexp : f32Exponent x = 0
  · have hscale : f32Scale x = -149 := if_pos hexp
    have hsmall : f32Significand x = f32Fraction x := if_pos hexp
    have hi' : msbIndex (f32Significand x) < 23 := (Nat.log2_lt hsig).mpr (by omega)
    rw [f32Magnitude_exact mode hmsb (by omega) (by omega) (by omega) (by omega)]
    omega
  · have hscale : f32Scale x = f32Exponent x - 150 := if_neg hexp
    have hlarge : f32Significand x = 2 ^ 23 + f32Fraction x := if_neg hexp
    have hi' : msbIndex (f32Significand x) = 23 := (msbIndex_eq_iff _ _ hsig).mpr (by omega)
    rw [f32Magnitude_exact mode hmsb (by omega) (by omega) (by omega) (by omega)]
    omega

/-! ### To a SoftFloat and back (R221, R223) -/

theorem toFloat_zero (mode : F32Round) : toFloat mode SoftFloat.zero = 0 := rfl

theorem f32_signed_natAbs (x : Word) : (f32Sign x * (f32Significand x : Int)).natAbs = f32Significand x := by
  rcases f32Sign_cases x with ⟨hs, -⟩ | ⟨hs, -⟩ <;> rw [hs] <;> omega

/-- A finite binary32 has a SoftFloat, of exactly its value (R221). -/
theorem exists_fromFloat {x : Word} (hfin : f32Exponent x < 255) :
    ∃ q, normalize (f32Sign x * (f32Significand x : Int)) (f32Scale x) = .ok q ∧ q.Normalized ∧
      q.val = (f32Sign x : ℚ) * f32Significand x * 2 ^ f32Scale x := by
  have habs := f32_signed_natAbs x
  have hlt := f32Significand_lt x
  have hscale := f32Scale_bounds hfin
  obtain ⟨q, hq⟩ := normalize_completes (k := 23) (habs.trans_lt hlt) (by omega) (e := f32Scale x) (by omega)
  refine ⟨q, hq, normalize_normalized _ _ q hq, ?_⟩
  rw [normalize_exact (by omega) hq]
  push_cast
  rfl

/-- `to_float` of what `normalize` makes of a finite binary32 other than zero gives the pattern back (R223). -/
theorem toFloat_of_normalize (mode : F32Round) {x : Word} {q : SoftFloat} (hfin : f32Exponent x < 255)
    (hsig : f32Significand x ≠ 0)
    (hq : normalize (f32Sign x * (f32Significand x : Int)) (f32Scale x) = .ok q) : toFloat mode q = x := by
  have habs := f32_signed_natAbs x
  have hne : f32Sign x * (f32Significand x : Int) ≠ 0 := by omega
  rcases normalize_nonzero _ (f32Scale x) hne with ⟨q', hq', hmant, hexp⟩ | ⟨herr, -⟩
  case inr => rw [herr] at hq; cases hq
  obtain rfl : q' = q := by simpa using hq'.symm.trans hq
  rw [habs] at hmant hexp
  obtain ⟨htop, -⟩ := alignMagnitude_bounds _ hsig
  have hmag := f32Magnitude_significand mode hfin hsig
  have hparts := toNat_eq_f32_parts x
  generalize alignMagnitude (f32Significand x) (msbIndex (f32Significand x)) = mag at hmant htop hmag
  obtain ⟨hnonzero, hnat, hbit⟩ : q'.mant.toInt ≠ 0 ∧ q'.mant.toInt.natAbs = mag ∧
      (if q'.mant.toInt < 0 then 2 ^ 31 else 0) = f32SignBit x := by
    rcases f32Sign_cases x with ⟨hs, hbit⟩ | ⟨hs, hbit⟩ <;> rw [hbit, hmant, hs, sgn]
    · rw [if_neg (by omega), if_neg (by omega)]; omega
    · rw [if_pos (by omega), if_pos (by omega)]; omega
  simp only [toFloat, if_neg hnonzero, hnat, hbit, hexp, hmag, ← hparts, BitVec.ofNat_toNat, BitVec.setWidth_eq]

/-- Settles O58: the significand has at most 24 bits, so neither normalizing nor rounding drops one. -/
theorem hostFloatsRoundTrip : Obligations.HostFloatsRoundTrip := by
  intro x
  refine ⟨fun hfinite => ?_, fun hinfinite => ?_⟩
  · have hfin : f32Exponent x < 255 := of_decide_eq_true hfinite
    obtain ⟨q, hq, hnorm, hval⟩ := exists_fromFloat hfin
    refine ⟨q, by rw [fromFloat, if_pos hfinite, hq]; rfl, hnorm, hval, fun mode => ?_⟩
    by_cases hsig : f32Significand x = 0
    · rw [hsig, Nat.cast_zero, mul_zero, normalize_zero] at hq
      cases hq
      rw [toFloat_zero]
      rcases (f32Significand_eq_zero_iff x).mp hsig with rfl | rfl <;> rfl
    · have hx : x ≠ 0x80000000#32 := fun hx => hsig ((f32Significand_eq_zero_iff x).mpr (.inr hx))
      rw [if_neg hx]
      exact toFloat_of_normalize mode hfin hsig hq
  · rw [fromFloat, hinfinite]; rfl

end Sys2Proof.Machine
end
